-- ==== Sys2Proof/Word.lean ====
section
/-! DEFINITION. The widths the block moves: bytes, 32-bit words, and bit streams in wire order. -/

namespace Sys2Proof

/-- One byte: the unit of an SPI exchange and of the backing store (00_scope.md R10). -/
abbrev Byte := BitVec 8

/-- A 32-bit word: command index, argument, offset, counter, block length (00_scope.md R10). -/
abbrev Word := BitVec 32

/-- A finite sequence of bits in wire order, the first element first on the wire (00_scope.md R12). -/
abbrev BitStream := List Bool

end Sys2Proof
end

