-- ==== Sys2Proof/Syntax.lean ====
section
/-! DEFINITION. The instructions: one constructor per row of spec/opcode_table.json. -/

namespace Sys2Proof

/-- The commands of 30_encoding.md R86, each with its whole 32-bit argument (R84), the filler byte (R82) and the
command token (R81 byte 0). Argument sub-fields do not exist (R85). -/
inductive Instr where
  /-- CMD0 GO_IDLE_STATE (43_standard_commands.md R203). -/
  | cmd0 (arg : Word)
  /-- CMD2 ALL_SEND_CID (R204). -/
  | cmd2 (arg : Word)
  /-- CMD3 SEND_RELATIVE_ADDR (R205). -/
  | cmd3 (arg : Word)
  /-- CMD7 SELECT_DESELECT_CARD (R206). -/
  | cmd7 (arg : Word)
  /-- CMD8 SEND_IF_COND (R207). -/
  | cmd8 (arg : Word)
  /-- CMD9 SEND_CSD (R208). -/
  | cmd9 (arg : Word)
  /-- CMD12 STOP_TRANSMISSION (R209). -/
  | cmd12 (arg : Word)
  /-- CMD13 SEND_STATUS (R215). -/
  | cmd13 (arg : Word)
  /-- CMD16 SET_BLOCKLEN (R210). -/
  | cmd16 (arg : Word)
  /-- CMD17 READ_SINGLE_BLOCK (R211). -/
  | cmd17 (arg : Word)
  /-- CMD18 READ_MULTIPLE_BLOCK (R212). -/
  | cmd18 (arg : Word)
  /-- CMD24 WRITE_BLOCK (R213). -/
  | cmd24 (arg : Word)
  /-- CMD55 APP_CMD (R214). -/
  | cmd55 (arg : Word)
  /-- CMD58 READ_OCR (R216). -/
  | cmd58 (arg : Word)
  /-- ACMD13 SD_STATUS (44_app_commands.md R251). -/
  | acmd13 (arg : Word)
  /-- ACMD41 SD_SEND_OP_COND (R252). -/
  | acmd41 (arg : Word)
  /-- ACMD51 SEND_SCR (R255). -/
  | acmd51 (arg : Word)
  /-- FILL: the byte 0xFF while the framer waits for a command (42_spi_framing.md R181). -/
  | fill
  /-- TOKEN: a byte 01cccccc while the framer waits for a command, `number` its low six bits (R183). -/
  | token (number : BitVec 6)
  deriving DecidableEq, Repr

end Sys2Proof
end

