-- ==== Sys2Proof/Decode.lean ====
section
/-! DEFINITION. Decoding: what a byte, a command number or a run of bytes stands for, and the encoder.
Total on any input; what is no instruction is rejected by name. -/

namespace Sys2Proof

/-- Why something is no instruction. -/
inductive DecodeError where
  /-- There is no byte to decode. -/
  | noBytes
  /-- A byte other than 0xFF whose top two bits are not 01 (30_encoding.md R89). -/
  | malformedToken (x : Byte)
  /-- A command number in neither table (30_encoding.md R90). -/
  | unrecognized (number : Word)
  deriving DecidableEq, Repr

/-- The command number of a token byte: its low six bits (30_encoding.md R84). -/
def tokenNumber (x : Byte) : BitVec 6 := x.extractLsb' 0 6

/-- The token byte of a command number: framing bits 01, then the number (30_encoding.md R81). -/
def tokenByte (n : BitVec 6) : Byte := 0b01#2 ++ n

/-- What a byte means while the framer waits for a command (30_encoding.md R82, R83, R89): the filler check is made
first, then the framing test. -/
def decodeByte (x : Byte) : Except DecodeError Instr :=
  if x = 0xFF then .ok .fill
  else if x &&& 0xC0 = 0x40 then .ok (.token (tokenNumber x))
  else .error (.malformedToken x)

/-- The application table (30_encoding.md R86, 44_app_commands.md R250). -/
def decodeApp (n a : Word) : Except DecodeError Instr :=
  if n = 13 then .ok (.acmd13 a)
  else if n = 41 then .ok (.acmd41 a)
  else if n = 51 then .ok (.acmd51 a)
  else .error (.unrecognized n)

/-- The standard table (30_encoding.md R86). -/
def decodeStd (n a : Word) : Except DecodeError Instr :=
  if n = 0 then .ok (.cmd0 a)
  else if n = 2 then .ok (.cmd2 a)
  else if n = 3 then .ok (.cmd3 a)
  else if n = 7 then .ok (.cmd7 a)
  else if n = 8 then .ok (.cmd8 a)
  else if n = 9 then .ok (.cmd9 a)
  else if n = 12 then .ok (.cmd12 a)
  else if n = 13 then .ok (.cmd13 a)
  else if n = 16 then .ok (.cmd16 a)
  else if n = 17 then .ok (.cmd17 a)
  else if n = 18 then .ok (.cmd18 a)
  else if n = 24 then .ok (.cmd24 a)
  else if n = 55 then .ok (.cmd55 a)
  else if n = 58 then .ok (.cmd58 a)
  else .error (.unrecognized n)

/-- The command a number stands for (30_encoding.md R87): the application table first, only if the app flag was set
on arrival, then the standard table. The number is compared as a whole 32-bit value. -/
def decodeCommand (app : Bool) (n a : Word) : Except DecodeError Instr :=
  if app then
    match decodeApp n a with
    | .ok i => .ok i
    | .error _ => decodeStd n a
  else decodeStd n a

/-- Argument assembly, most significant byte first (30_encoding.md R84). -/
def argOfBytes (b1 b2 b3 b4 : Byte) : Word :=
  (b1.setWidth 32 <<< 24) ||| (b2.setWidth 32 <<< 16) ||| (b3.setWidth 32 <<< 8) ||| b4.setWidth 32

/-- Read one instruction from the bytes a host sends to a framer that waits for a command, with the app flag `app`
standing (30_encoding.md R81 to R88), and return it with the bytes that follow.
A whole frame whose number is in a table is that command, its CRC byte ignored. A token whose frame is not yet whole,
or whose number is in no table, is the row TOKEN, one byte long (log 13). -/
def decode (app : Bool) : List Byte → Except DecodeError (Instr × List Byte)
  | [] => .error .noBytes
  | b0 :: rest =>
    match decodeByte b0 with
    | .error e => .error e
    | .ok (.token n) =>
      match rest with
      | b1 :: b2 :: b3 :: b4 :: _crc :: tail =>
        match decodeCommand app (n.setWidth 32) (argOfBytes b1 b2 b3 b4) with
        | .ok i => .ok (i, tail)
        | .error _ => .ok (.token n, rest)
      | _ => .ok (.token n, rest)
    | .ok i => .ok (i, rest)

/-- The number a command is sent under (30_encoding.md R86); for TOKEN its own, for FILL none. -/
def Instr.number : Instr → Option (BitVec 6)
  | .cmd0 _ => some 0
  | .cmd2 _ => some 2
  | .cmd3 _ => some 3
  | .cmd7 _ => some 7
  | .cmd8 _ => some 8
  | .cmd9 _ => some 9
  | .cmd12 _ => some 12
  | .cmd13 _ => some 13
  | .cmd16 _ => some 16
  | .cmd17 _ => some 17
  | .cmd18 _ => some 18
  | .cmd24 _ => some 24
  | .cmd55 _ => some 55
  | .cmd58 _ => some 58
  | .acmd13 _ => some 13
  | .acmd41 _ => some 41
  | .acmd51 _ => some 51
  | .fill => none
  | .token n => some n

/-- The six bytes of an SPI command frame (30_encoding.md R81). -/
def frame (n : BitVec 6) (a : Word) (crc : Byte) : List Byte :=
  [tokenByte n, a.extractLsb' 24 8, a.extractLsb' 16 8, a.extractLsb' 8 8, a.extractLsb' 0 8, crc]

/-- The bytes of an instruction, with the CRC byte `crc`, which no rule reads (30_encoding.md R81). -/
def encodeWith (crc : Byte) : Instr → List Byte
  | .cmd0 a => frame 0 a crc
  | .cmd2 a => frame 2 a crc
  | .cmd3 a => frame 3 a crc
  | .cmd7 a => frame 7 a crc
  | .cmd8 a => frame 8 a crc
  | .cmd9 a => frame 9 a crc
  | .cmd12 a => frame 12 a crc
  | .cmd13 a => frame 13 a crc
  | .cmd16 a => frame 16 a crc
  | .cmd17 a => frame 17 a crc
  | .cmd18 a => frame 18 a crc
  | .cmd24 a => frame 24 a crc
  | .cmd55 a => frame 55 a crc
  | .cmd58 a => frame 58 a crc
  | .acmd13 a => frame 13 a crc
  | .acmd41 a => frame 41 a crc
  | .acmd51 a => frame 51 a crc
  | .fill => [0xFF]
  | .token n => [tokenByte n]

/-- The bytes of an instruction, with the CRC byte of the spec's notation (30_encoding.md R101). -/
def encode (i : Instr) : List Byte := encodeWith 0x95 i

/-- The instruction is in the application table, so it is read only with the app flag set (30_encoding.md R88). -/
def Instr.isApp : Instr → Bool
  | .acmd13 _ | .acmd41 _ | .acmd51 _ => true
  | .cmd0 _ | .cmd2 _ | .cmd3 _ | .cmd7 _ | .cmd8 _ | .cmd9 _ | .cmd12 _ => false
  | .cmd13 _ | .cmd16 _ | .cmd17 _ | .cmd18 _ | .cmd24 _ | .cmd55 _ | .cmd58 _ => false
  | .fill | .token _ => false

/-- The app flags under which an instruction's bytes are read as it: set for an application command, clear for
CMD13, which shares its number with one, and any for every other instruction (30_encoding.md R87, R88). -/
def Instr.readUnder (i : Instr) (app : Bool) : Bool :=
  match i with
  | .acmd13 _ | .acmd41 _ | .acmd51 _ => app
  | .cmd13 _ => !app
  | .cmd0 _ | .cmd2 _ | .cmd3 _ | .cmd7 _ | .cmd8 _ | .cmd9 _ | .cmd12 _ => true
  | .cmd16 _ | .cmd17 _ | .cmd18 _ | .cmd24 _ | .cmd55 _ | .cmd58 _ => true
  | .fill | .token _ => true

/-- The six bytes of the table's word `w` of `nbits` bits: byte j is bits 8j+7..8j, and every bit above `nbits` is 0. -/
def tableBytes (nbits w : Nat) : List Byte :=
  (List.range 6).map fun j => BitVec.ofNat 8 ((w % 2 ^ nbits) / 2 ^ (8 * j))

/-- The instruction the decoder reads from a word numbered as spec/opcode_table.json numbers it. The word does not
hold the app flag: it is read without it, and with it only where the number has no standard row (41 and 51; log 13). -/
def decodeTableWord (nbits w : Nat) : Option Instr :=
  match decode false (tableBytes nbits w) with
  | .ok (.token _, _) =>
    match decode true (tableBytes nbits w) with
    | .ok (i, _) => some i
    | .error _ => none
  | .ok (i, _) => some i
  | .error _ => none

end Sys2Proof
end

