-- ==== Sys2Proof/Config.lean ====
section
/-! DEFINITION. What is fixed for a card's lifetime: the construction parameters, the values `State.reset`
takes for them, and the one free value of the spec. -/

namespace Sys2Proof

/-- The construction parameters (00_scope.md R9), less STORE_INIT, which is an argument of `construct`.
No command writes any of them. They are held in State, so a statement over every state holds for every
value of every parameter. -/
structure Params where
  /-- SPI_MODE: SPI mode enabled (true) or native bus only (false). -/
  spiMode : Bool
  /-- REQUESTED_CAPACITY: the size hint given to the capacity deriver, in bytes. -/
  requestedCapacity : Nat
  /-- CARD_ADDRESS: the relative card address. -/
  cardAddress : BitVec 16
  /-- BLOCK_LEN_INIT: `blockLen` at construction. -/
  blockLenInit : Word
  /-- CID_VALUE: the card identification register. -/
  cid : BitVec 128
  /-- CSD_BASE: the CSD bits that are not derived from the geometry. -/
  csdBase : BitVec 128
  /-- SCR_VALUE: the SD configuration register. -/
  scr : BitVec 64
  /-- SDSTATUS_VALUE: the SD status register. -/
  sdStatus : BitVec 512
  /-- BL_MIN: least legal CSD block-length code. -/
  blMin : Fin 16
  /-- BL_MAX: greatest legal CSD block-length code. -/
  blMax : Fin 16
  deriving DecidableEq, Repr

/-- CARD_ADDRESS of the reset card. OPEN in the spec (92_eei_decisions.md D16): no value can be proved of it.
DESIGN CHOICE, safe (log 6). -/
opaque Config.cardAddress : BitVec 16

/-- CID_VALUE of the reset card. OPEN in the spec (D21). DESIGN CHOICE, safe (log 6). -/
opaque Config.cidValue : BitVec 128

/-- SCR_VALUE of the reset card. OPEN in the spec (D22). DESIGN CHOICE, safe (log 6). -/
opaque Config.scrValue : BitVec 64

/-- SDSTATUS_VALUE of the reset card. OPEN in the spec (D22). DESIGN CHOICE, safe (log 6). -/
opaque Config.sdStatusValue : BitVec 512

/-- The draw ZL_BYTE (00_scope.md R9, 42_spi_framing.md R186): the byte returned by the k-th exchange whose
dispatch gave no response. A free value: nothing constrains it (log 8). -/
opaque Config.freeByte : Nat → Byte

/-- The parameters of the card `State.reset` is. SPI_MODE and REQUESTED_CAPACITY are OPEN in the spec and chosen
here: DESIGN CHOICE, unsafe for statements about `State.reset` (logs 4, 5). BLOCK_LEN_INIT, CSD_BASE, BL_MIN and
BL_MAX are the spec's values (00_scope.md R9). -/
def Config.params : Params where
  spiMode := true
  requestedCapacity := 16777216
  cardAddress := Config.cardAddress
  blockLenInit := 512
  cid := Config.cidValue
  csdBase := 0
  scr := Config.scrValue
  sdStatus := Config.sdStatusValue
  blMin := 0
  blMax := 15

end Sys2Proof
end

