-- ==== Sys2Proof/Machine/State.lean ====
section
/-! DEFINITION. The machine's state, as plain data, the reasons a step can stop, and the state after reset. -/

namespace Sys2Proof.Machine

/-- The card runtime state (10_state.md R20). -/
structure Card where
  /-- In the idle state (R21). -/
  isIdle : Bool
  /-- The one-shot app-command flag (R22). -/
  appCmd : Bool
  /-- The relative card address (R23). -/
  rca : BitVec 16
  /-- The block length in bytes (R24). -/
  blockLen : Word
  deriving DecidableEq, Repr

/-- An I/O context, in the sum-type form of 10_state.md R30: store-bound with a byte cursor and the remaining count,
or override-bound with a bit cursor into a captured stream and the count saved at the binding (R28). -/
inductive IoCtx where
  | store (offset counter : Word)
  | override (data : BitStream) (bitCursor savedCounter : Word)
  deriving DecidableEq, Repr

/-- The reset value of an I/O context (10_state.md R31). -/
def IoCtx.reset : IoCtx := .store 0 0

/-- The states of the SPI framer (10_state.md R32). -/
inductive SpiState where
  | waitingForCommand
  | waitingForArgBytes
  | waitingForCRC
  | sendingResponse
  deriving DecidableEq, Repr

/-- The SPI frame state (10_state.md R32). -/
structure SpiFrame where
  state : SpiState
  /-- The latched command number. -/
  cmdNum : BitVec 6
  /-- The argument assembled so far. -/
  arg : Word
  /-- How many argument bytes have come, 0 to 4. -/
  argCount : Fin 5
  /-- Response bytes still to be sent, next first. -/
  queue : List Byte
  deriving DecidableEq, Repr

/-- The reset value of the SPI frame state (10_state.md R33). -/
def SpiFrame.reset : SpiFrame where
  state := .waitingForCommand
  cmdNum := 0
  arg := 0
  argCount := 0
  queue := []

/-- The geometry fields of the CSD (10_state.md R35): multiplier, device size, block-length code. -/
structure Geometry where
  m : BitVec 3
  d : BitVec 12
  b : BitVec 4
  deriving DecidableEq, Repr

/-- The kinds of contract fault (60_exceptions.md R303). -/
inductive FaultKind where
  /-- F1: `transmit` with SPI_MODE false. -/
  | spiDisabled
  /-- F2: `setBytesLeft` on an override-bound context. -/
  | setBytesLeftWhileBound
  /-- F3: `advance` past the remaining bytes. -/
  | advanceUnderflow
  deriving DecidableEq, Repr

/-- The sticky set of contract faults (10_state.md R40), one membership bit a kind, so that equal sets are equal
data. -/
structure FaultSet where
  spiDisabled : Bool
  setBytesLeftWhileBound : Bool
  advanceUnderflow : Bool
  deriving DecidableEq, Repr

/-- No contract fault recorded. -/
def FaultSet.empty : FaultSet := ⟨false, false, false⟩

/-- The levels of diagnostic events the block uses (60_exceptions.md R307). -/
inductive Level where
  | debug
  | warning
  | error
  deriving DecidableEq, Repr

/-- The kinds of diagnostic event (60_exceptions.md R301, R303, R304; 43_standard_commands.md R200). -/
inductive EventKind where
  | malformedToken
  | unknownCommand
  | unsupportedInSpi
  | readRejected
  | writeRejected
  | emptyResponse
  | shortRead
  | shortWrite
  | notAppCommand
  | contract (k : FaultKind)
  deriving DecidableEq, Repr

/-- A diagnostic event (10_state.md R41). -/
structure Event where
  level : Level
  kind : EventKind
  deriving DecidableEq, Repr

/-- The registers with an accessor port (45_data_transfer.md R278). -/
inductive RegName where
  | cardStatus
  | ocr
  | csd
  | cid
  | scr
  | sdStatus
  deriving DecidableEq, Repr

/-- A call of one of the block's ports (00_scope.md R18, 70_reset_and_hazards.md R346). -/
inductive PortCall where
  | handleCommand (index arg : Word)
  | transmit (x : Byte)
  | finishTransmission
  | readData (n : Word)
  | writeData (v : List Byte)
  | setReadLimit (k : Word)
  | readRegister (r : RegName)
  | reset
  | dispose
  deriving DecidableEq, Repr

/-- What a port call returns (70_reset_and_hazards.md R346). -/
inductive PortResult where
  | stream (b : BitStream)
  | byte (x : Byte)
  | bytes (v : List Byte)
  | nothing
  deriving DecidableEq, Repr

/-- The backing store's contents: (address, byte) cells, addresses strictly rising, none equal to what an unlisted
address reads as (Machine/Ops.lean, `Memory.wf`). -/
abbrev Memory := List Host.Cell

/-- The state of the block. Every field is plain data. -/
structure State where
  /-- The construction parameters (00_scope.md R9). -/
  params : Params
  /-- The card runtime state (10_state.md R20). -/
  card : Card
  /-- The read context (R25). -/
  rd : IoCtx
  /-- The write context (R25, R29). -/
  wr : IoCtx
  /-- The SPI frame state (R32). -/
  spi : SpiFrame
  /-- The geometry (R35). -/
  geom : Geometry
  /-- STORE_LEN (R35). -/
  storeLen : Nat
  /-- STORE (R36). -/
  store : Memory
  /-- The contract faults recorded so far (R40). -/
  fault : FaultSet
  /-- The diagnostic events emitted so far, oldest first (R41). Output only. -/
  log : List Event
  /-- `dispose` has been called (20_memory.md R69). -/
  disposed : Bool
  /-- The model's own: the port calls the host has still to make, oldest first (log 1). -/
  pending : List PortCall
  /-- The model's own: what the call being executed returns (log 3). -/
  ret : PortResult
  /-- The model's own: what the calls so far returned, oldest first (log 3). -/
  returned : List PortResult
  /-- The model's own: how many free values have been drawn (log 8). -/
  draws : Nat
  deriving DecidableEq, Repr

/-- Why the machine stops with a fault. -/
inductive Fault where
  /-- E1 CapacityUnencodable (60_exceptions.md R302). Raised by `construct` alone, when no geometry encodes the
  requested capacity: no card exists. Safe: the spec gives this outcome. No step raises it. -/
  | capacityUnencodable
  deriving DecidableEq, Repr

/-- Why the machine refuses. -/
inductive Refusal where
  /-- Raised by `exec` for an instruction that has no meaning yet. Safe. No instruction is left so. -/
  | notModelled (mnemonic : String)
  /-- Raised by `step` for any port call after `dispose` (20_memory.md R69). Safe: the spec says to refuse. -/
  | disposed
  /-- Raised by a register accessor whose definition has a fragment past its width (40_register_composer.md R121).
  Safe: the spec says to refuse. No register of the spec is so defined. -/
  | illFormedRegister
  /-- Raised by `construct` for a CSD_BASE that is not zero at the geometry's bits (00_scope.md R9). Safe: the value
  is outside the parameter's type. No step raises it. -/
  | illFormedParameters
  deriving DecidableEq, Repr

/-- The card right after construction (10_state.md R43, 70_reset_and_hazards.md R333) with the parameters
`Config.params`: 16 MiB, so geometry (7, 4095, 3) and 16,777,216 bytes (40_register_composer.md R145), and a store
with nothing listed. No port call is pending. -/
def State.reset : State where
  params := Config.params
  card := { isIdle := true, appCmd := false, rca := Config.cardAddress, blockLen := 512 }
  rd := IoCtx.reset
  wr := IoCtx.reset
  spi := SpiFrame.reset
  geom := { m := 7, d := 4095, b := 3 }
  storeLen := 16777216
  store := []
  fault := FaultSet.empty
  log := []
  disposed := false
  pending := []
  ret := .nothing
  returned := []
  draws := 0

end Sys2Proof.Machine
end

