-- ==== Sys2Proof/Machine/Streams.lean ====
section
/-! DEFINITION. Bit streams in wire order, most significant bit first (00_scope.md R12, 20_memory.md R57). -/

namespace Sys2Proof.Machine

/-- `bits(W, V)`: the stream of a W-bit value, element i being bit W-1-i (00_scope.md R12). -/
def bits {w : Nat} (v : BitVec w) : BitStream := (List.range w).map fun i => v.getMsbD i

/-- The byte whose bits are given, most significant first. -/
def byteOfBits (b7 b6 b5 b4 b3 b2 b1 b0 : Bool) : Byte :=
  BitVec.ofNat 8 (128 * b7.toNat + 64 * b6.toNat + 32 * b5.toNat + 16 * b4.toNat
    + 8 * b3.toNat + 4 * b2.toNat + 2 * b1.toNat + b0.toNat)

/-- `bytes(s)`: the bytes of a stream, bit 8j of the stream the most significant bit of byte j (00_scope.md R12).
The spec defines it for lengths that are a multiple of 8; a shorter tail yields no byte (log 10). -/
def bytes : BitStream → List Byte
  | b7 :: b6 :: b5 :: b4 :: b3 :: b2 :: b1 :: b0 :: rest => byteOfBits b7 b6 b5 b4 b3 b2 b1 b0 :: bytes rest
  | _ => []

/-- The stream whose bytes are given, first byte first. -/
def ofBytes (v : List Byte) : BitStream := v.flatMap fun x => bits x

/-- `asByte(s)`: the value of an 8-bit stream; any other length is refused (00_scope.md R12). -/
def asByte (s : BitStream) : Option Byte :=
  match bytes s with
  | [x] => if s.length = 8 then some x else none
  | _ => none

/-- `asU32(s)`: the value of a 32-bit stream; any other length is refused (00_scope.md R12). -/
def asU32 (s : BitStream) : Option Word :=
  match bytes s with
  | [b3, b2, b1, b0] => if s.length = 32 then some (b3 ++ b2 ++ b1 ++ b0) else none
  | _ => none

end Sys2Proof.Machine
end

