-- ==== Sys2Proof/Machine/Ops.lean ====
section
/-! DEFINITION. The named operations over the backing store, the log, the fault record and the whole state. -/

namespace Sys2Proof.Machine

/-- What an unlisted address of the store reads as: 0x00. The spec leaves the contents at construction OPEN
(92_eei_decisions.md D31). DESIGN CHOICE, unsafe for statements about `State.reset` (log 7). -/
def Memory.unlisted : Byte := 0

/-- The byte at an address. -/
def Memory.readByte : Memory → Nat → Byte
  | [], _ => Memory.unlisted
  | (k, v) :: m, a => if k = a then v else Memory.readByte m a

/-- Put a cell before `m`, unless it says what an unlisted address reads as anyway. -/
def Memory.consCell (a : Nat) (x : Byte) (m : Memory) : Memory :=
  if x = Memory.unlisted then m else (a, x) :: m

/-- Write one byte, keeping the canonical form. -/
def Memory.writeByte : Memory → Nat → Byte → Memory
  | [], a, x => Memory.consCell a x []
  | (k, v) :: m, a, x =>
    if a < k then Memory.consCell a x ((k, v) :: m)
    else if a = k then Memory.consCell a x m
    else (k, v) :: Memory.writeByte m a x

/-- Write bytes at rising addresses, the first at `a` (20_memory.md R56). -/
def Memory.writeBytes : Memory → Nat → List Byte → Memory
  | m, _, [] => m
  | m, a, x :: xs => Memory.writeBytes (Memory.writeByte m a x) (a + 1) xs

/-- The canonical form: addresses strictly rising, no cell equal to what an unlisted address reads as. -/
def Memory.wf : Memory → Bool
  | [] => true
  | (k, v) :: m => v != Memory.unlisted && m.all (fun c => decide (k < c.1)) && Memory.wf m

/-- Every listed address is below `n`: the store has exactly `n` bytes (20_memory.md R51). -/
def Memory.below (n : Nat) (m : Memory) : Bool := m.all fun c => decide (c.1 < n)

/-- The end of what a transfer reaches in a store of `len` bytes: STORE_LEN, and never more than 2^32, since no command
can reach a byte at 2^32 or above (20_memory.md R51). DESIGN CHOICE, unsafe (log 24): for a transfer that starts below
2^32 and would run past it, the formula of R52 and R53 gives more bytes than R51 allows, and the model follows R51. -/
def reach (len : Nat) : Nat := min len (2 ^ 32)

/-- How many of `n` bytes at `addr` a transfer moves in a store of `len` bytes: min(n, max(0, len - addr)) (20_memory.md
R52), and none of them at 2^32 or above (R51, log 24). -/
def clip (len addr n : Nat) : Nat := min n (reach len - addr)

/-- `MemRead(addr, n)` (20_memory.md R52): the bytes in rising address order, clipped at STORE_LEN and at 2^32 (R51, log
24). Changes nothing. -/
def memRead (addr n : Nat) (s : State) : List Byte :=
  (List.range (clip s.storeLen addr n)).map fun i => s.store.readByte (addr + i)

/-- `MemWrite(addr, len(v), v)` (20_memory.md R53): the bytes that fit below STORE_LEN, and below 2^32 (R51, log 24), are
stored, the rest dropped. -/
def memWrite (addr : Nat) (v : List Byte) (s : State) : State :=
  { s with store := s.store.writeBytes addr (v.take (clip s.storeLen addr v.length)) }

/-- `log(level, kind)` (00_scope.md R14, 60_exceptions.md R307). -/
def logEvent (l : Level) (k : EventKind) (s : State) : State := { s with log := s.log ++ [⟨l, k⟩] }

/-- Set what the call being executed returns. -/
def respond (r : PortResult) (s : State) : State := { s with ret := r }

/-- Whether a kind has been recorded. -/
def FaultSet.has (f : FaultSet) : FaultKind → Bool
  | .spiDisabled => f.spiDisabled
  | .setBytesLeftWhileBound => f.setBytesLeftWhileBound
  | .advanceUnderflow => f.advanceUnderflow

/-- Record a kind; nothing removes one (10_state.md R40). -/
def FaultSet.add (f : FaultSet) : FaultKind → FaultSet
  | .spiDisabled => { f with spiDisabled := true }
  | .setBytesLeftWhileBound => { f with setBytesLeftWhileBound := true }
  | .advanceUnderflow => { f with advanceUnderflow := true }

/-- `raise ContractFault(kind)` (60_exceptions.md R303): the block's one shared error entry. It adds the kind to the
sticky set and one error event to the log, changes nothing else, and the call returns nothing (`transmit` sets its own
0x00). There is no trap entry and no return from one (R308, R309): the block goes on. -/
def contractFault (k : FaultKind) (s : State) : State :=
  { s with fault := s.fault.add k, log := s.log ++ [⟨.error, .contract k⟩], ret := .nothing }

/-- `reset()` (70_reset_and_hazards.md R330): both contexts, both flags and the SPI frame; nothing else. -/
def resetCard (s : State) : State :=
  { s with
    rd := IoCtx.reset
    wr := IoCtx.reset
    card := { s.card with appCmd := false, isIdle := true }
    spi := SpiFrame.reset }

/-- Carry a next state on; stops stay stops. -/
def onNext (o : Host.Outcome State Fault Refusal) (f : State → State) : Host.Outcome State Fault Refusal :=
  match o with
  | .next s => .next (f s)
  | .fault r => .fault r
  | .refused r => .refused r

end Sys2Proof.Machine
end

