-- ==== Sys2Proof/Machine/IoContext.lean ====
section
/-! DEFINITION. The operations of an I/O context (41_io_context.md R160 to R167). -/

namespace Sys2Proof.Machine

/-- The stored `offset`: a byte address when store-bound, a bit cursor when override-bound (10_state.md R27). -/
def IoCtx.offset : IoCtx → Word
  | .store o _ => o
  | .override _ c _ => c

/-- The stored `counter`; while override-bound the value saved at the binding (10_state.md R28). -/
def IoCtx.counter : IoCtx → Word
  | .store _ k => k
  | .override _ _ k => k

/-- The bound stream, if there is one. -/
def IoCtx.boundTo : IoCtx → Option BitStream
  | .store _ _ => none
  | .override d _ _ => some d

/-- `setOffset(c, o)` (R160): drops any binding; the counter is unchanged. -/
def IoCtx.setOffset (c : IoCtx) (o : Word) : IoCtx := .store o c.counter

/-- `bindOverrideData(c, s)` (R161): the cursor starts at 0; the counter is kept. -/
def IoCtx.bindOverrideData (c : IoCtx) (d : BitStream) : IoCtx := .override d 0 c.counter

/-- `bytesLeft(c)` (R162): from the cursor's position when override-bound, else the counter. -/
def IoCtx.bytesLeft : IoCtx → Nat
  | .store _ k => k.toNat
  | .override d c _ => (d.length - c.toNat) / 8

/-- `isActive(c)` (R163). -/
def IoCtx.isActive (c : IoCtx) : Bool := decide (0 < c.bytesLeft)

/-- `canAccept(c, n)` (R164). -/
def IoCtx.canAccept (c : IoCtx) (n : Nat) : Bool := decide (n ≤ c.bytesLeft)

/-- `advance(c, n)` (R165): F3 past the remaining bytes; else the bit cursor moves by 8n, or the byte cursor by n
modulo 2^32 with the counter n less. -/
def IoCtx.advance (c : IoCtx) (n : Nat) : Except FaultKind IoCtx :=
  if c.bytesLeft < n then .error .advanceUnderflow
  else
    match c with
    | .override d p k => .ok (.override d (p + BitVec.ofNat 32 (8 * n)) k)
    | .store o k => .ok (.store (o + BitVec.ofNat 32 n) (k - BitVec.ofNat 32 n))

/-- `setBytesLeft(c, k)` (R166): F2 on an override-bound context, else the counter takes the value. -/
def IoCtx.setBytesLeft (c : IoCtx) (k : Word) : Except FaultKind IoCtx :=
  match c with
  | .override _ _ _ => .error .setBytesLeftWhileBound
  | .store o _ => .ok (.store o k)

/-- `resetCtx(c)` (R167). -/
def IoCtx.resetCtx (_ : IoCtx) : IoCtx := IoCtx.reset

/-- Go on with a context operation's result, or record its contract fault (60_exceptions.md R303). -/
def orFault (r : Except FaultKind IoCtx) (k : IoCtx → State) (s : State) : State :=
  match r with
  | .ok c => k c
  | .error e => contractFault e s

end Sys2Proof.Machine
end

