-- ==== Sys2Proof/Machine/Operands.lean ====
section
/-! DEFINITION. How an argument becomes an operand: the argument bytes of a frame, the block address, and a transfer's
bytes. -/

namespace Sys2Proof.Machine

/-- One more argument byte, big-endian (42_spi_framing.md R184): (arg << 8 | x) mod 2^32. -/
def shiftInByte (arg : Word) (x : Byte) : Word := (arg <<< 8) ||| x.setWidth 32

/-- The store offset of a block-addressed command (20_memory.md R62): a × blockLen mod 2^32. -/
def blockOffset (a : Word) (s : State) : Word := a * s.card.blockLen

/-- Arm the read context at an offset with a count (43_standard_commands.md R211): setOffset, then setBytesLeft. -/
def armRead (off k : Word) (s : State) : State :=
  orFault ((s.rd.setOffset off).setBytesLeft k) (fun c => { s with rd := c }) s

/-- Arm the write context at an offset with a count (43_standard_commands.md R213). -/
def armWrite (off k : Word) (s : State) : State :=
  orFault ((s.wr.setOffset off).setBytesLeft k) (fun c => { s with wr := c }) s

/-- The next `n` bytes a context delivers (45_data_transfer.md R271, R272): sliced from the bound stream at the bit
cursor, or read from the store at the offset, clipped (at 2^32 too: log 24). -/
def transferBytes (c : IoCtx) (n : Nat) (s : State) : List Byte :=
  match c with
  | .override d p _ => ((bytes d).drop (p.toNat / 8)).take n
  | .store o _ => memRead o.toNat n s

/-- Log a short read (45_data_transfer.md R272). -/
def noteShortRead (out : List Byte) (n : Nat) (s : State) : State :=
  if out.length < n then logEvent .warning .shortRead s else s

end Sys2Proof.Machine
end

