-- ==== Sys2Proof/Machine/DataPath.lean ====
section
/-! DEFINITION. The data transfer ports (45_data_transfer.md R270 to R277). -/

namespace Sys2Proof.Machine

/-- `readData(N)` (R270 to R272): rejected with an empty result unless `rd` is active and holds N bytes; else the bytes
come from the bound register or the store, and the cursor moves by the full N. -/
def readData (n : Word) (s : State) : State :=
  if s.rd.isActive && s.rd.canAccept n.toNat then
    let out := transferBytes s.rd n.toNat s
    let t := noteShortRead out n.toNat s
    orFault (t.rd.advance n.toNat) (fun c => respond (.bytes out) { t with rd := c }) s
  else respond (.bytes []) (logEvent .warning .readRejected s)

/-- Log a short write (R274). -/
def noteShortWrite (k n : Nat) (s : State) : State :=
  if k < n then logEvent .warning .shortWrite s else s

/-- `writeData(v)` (R274): rejected whole unless `wr` is active and accepts all of it; else the bytes below STORE_LEN
(and below 2^32: log 24) are stored and the cursor moves by the full length. The port returns nothing. -/
def writeData (v : List Byte) (s : State) : State :=
  if s.wr.isActive && s.wr.canAccept v.length then
    let t := noteShortWrite (clip s.storeLen s.wr.offset.toNat v.length) v.length (memWrite s.wr.offset.toNat v s)
    orFault (t.wr.advance v.length) (fun c => respond .nothing { t with wr := c }) s
  else respond .nothing (logEvent .warning .writeRejected s)

/-- `setReadLimit(k)` (R277): `setBytesLeft(rd, k)`; F2 while `rd` is override-bound. -/
def setReadLimit (k : Word) (s : State) : State :=
  orFault (s.rd.setBytesLeft k) (fun c => respond .nothing { s with rd := c }) s

end Sys2Proof.Machine
end

