-- ==== Sys2Proof/Machine/Registers.lean ====
section
/-! DEFINITION. The bit-field register composer and the six computed registers (40_register_composer.md R120 to R136). -/

namespace Sys2Proof.Machine

/-- The value source of a fragment (R120): a constant, or a function of the card state evaluated at read time. -/
inductive Source where
  | const (c : Nat)
  | fn (f : Card → Nat)

/-- A fragment: bit offset, width, source (R120). -/
structure Fragment where
  off : Nat
  w : Nat
  src : Source

/-- A bit-field register: total width and fragments (R120). -/
structure Reg where
  width : Nat
  frags : List Fragment

/-- Well-formedness (R121): every fragment has a width and lies inside the register. -/
def Reg.wf (r : Reg) : Bool := r.frags.all fun f => decide (1 ≤ f.w) && decide (f.off + f.w ≤ r.width)

/-- A source's value in a card state (R122). -/
def Source.eval (c : Card) : Source → Nat
  | .const k => k
  | .fn f => f c

/-- A fragment's contribution: the value masked to the declared width, at its bit offset (R122). -/
def Fragment.place (c : Card) (f : Fragment) : Nat := (f.src.eval c % 2 ^ f.w) <<< f.off

/-- Composition (R122): the OR of the fragments, overlap included (R123); bits no fragment covers are 0. -/
def Reg.value (r : Reg) (c : Card) : BitVec r.width :=
  BitVec.ofNat r.width (r.frags.foldl (fun v f => v ||| f.place c) 0)

/-- Reading a register (R121, R122, R124): its stream, or nothing where the definition is not well-formed. -/
def Reg.read (r : Reg) (c : Card) : Option BitStream := if r.wf then some (bits (r.value c)) else none

/-- The card status register (R130): APP_CMD at bit 5, READY_FOR_DATA at bit 8. -/
def cardStatusReg : Reg where
  width := 32
  frags := [⟨5, 1, .fn fun c => c.appCmd.toNat⟩, ⟨8, 1, .const 1⟩]

/-- The operating conditions register (R131): power-up status at bit 31, voltage window at bits 23:15. -/
def ocrReg : Reg where
  width := 32
  frags := [⟨31, 1, .const 1⟩, ⟨15, 9, .const 0x1FF⟩]

/-- The card identification register (R132). -/
def cidReg (p : Params) : Reg where
  width := 128
  frags := [⟨0, 128, .const p.cid.toNat⟩]

/-- The card-specific data register (R133): C_SIZE_MULT 49:47, C_SIZE 73:62, READ_BL_LEN 83:80, and CSD_BASE. -/
def csdReg (p : Params) (g : Geometry) : Reg where
  width := 128
  frags := [⟨47, 3, .const g.m.toNat⟩, ⟨62, 12, .const g.d.toNat⟩, ⟨80, 4, .const g.b.toNat⟩,
    ⟨0, 128, .const p.csdBase.toNat⟩]

/-- The SD configuration register (R134). -/
def scrReg (p : Params) : Reg where
  width := 64
  frags := [⟨0, 64, .const p.scr.toNat⟩]

/-- The SD status register (R135). -/
def sdStatusReg (p : Params) : Reg where
  width := 512
  frags := [⟨0, 512, .const p.sdStatus.toNat⟩]

/-- `cardStatus()` (R130). -/
def cardStatus (s : State) : BitVec 32 := cardStatusReg.value s.card

/-- `ocr()` (R131). -/
def ocr (s : State) : BitVec 32 := ocrReg.value s.card

/-- `cid()` (R132). -/
def cid (s : State) : BitVec 128 := (cidReg s.params).value s.card

/-- `csd()` (R133). -/
def csd (s : State) : BitVec 128 := (csdReg s.params s.geom).value s.card

/-- `scr()` (R134). -/
def scr (s : State) : BitVec 64 := (scrReg s.params).value s.card

/-- `sdStatus()` (R135). -/
def sdStatus (s : State) : BitVec 512 := (sdStatusReg s.params).value s.card

/-- The register behind an accessor port (45_data_transfer.md R278). -/
def registerOf (r : RegName) (s : State) : Reg :=
  match r with
  | .cardStatus => cardStatusReg
  | .ocr => ocrReg
  | .csd => csdReg s.params s.geom
  | .cid => cidReg s.params
  | .scr => scrReg s.params
  | .sdStatus => sdStatusReg s.params

/-- A register accessor port (45_data_transfer.md R278): the whole register's stream; no state changes. -/
def readRegister (r : RegName) (s : State) : Host.Outcome State Fault Refusal :=
  match (registerOf r s).read s.card with
  | some b => .next (respond (.stream b) s)
  | none => .refused .illFormedRegister

end Sys2Proof.Machine
end

