-- ==== Sys2Proof/Machine/Flags.lean ====
section
/-! DEFINITION. The block's two flags and the responses that report them (10_state.md R37; 30_encoding.md R92 to R99). -/

namespace Sys2Proof.Machine

/-- The app flag is consumed before dispatch, always (43_standard_commands.md R200). -/
def clearAppFlag (s : State) : State := { s with card := { s.card with appCmd := false } }

/-- The app-command marker sets the flag (R214). -/
def setAppFlag (s : State) : State := { s with card := { s.card with appCmd := true } }

/-- ACMD41 ends the idle state (44_app_commands.md R252). -/
def clearIdle (s : State) : State := { s with card := { s.card with isIdle := false } }

/-- The R1 byte (30_encoding.md R94): illegal command at bit 2, idle at bit 0, all else 0. -/
def r1 (ill : Bool) (s : State) : Byte :=
  ((if ill then 1 else 0) <<< 2) ||| (if s.card.isIdle then 1 else 0)

/-- An R1 response (R94). -/
def r1Frame (ill : Bool) (s : State) : List Byte := [r1 ill s]

/-- An R2 response (R95). -/
def r2Frame (s : State) : List Byte := [r1 false s, 0x00]

/-- An R3 response (R96). -/
def r3Frame (s : State) : List Byte := [r1 false s, 0x00, 0x00, 0x00, 0x00]

/-- An R7 response (R97). -/
def r7Frame (s : State) : List Byte := [r1 false s, 0x00, 0x00, 0x00, 0x00]

/-- The SPI read-data frame (R98): R1, the block-start marker, the data. -/
def readDataFrame (data : List Byte) (s : State) : List Byte := [r1 false s, 0xFE] ++ data

/-- The native STATUS response (R93). -/
def statusStream (s : State) : BitStream := bits (cardStatus s)

/-- `r6()` (43_standard_commands.md R205): the card address over status bits 23, 22, 19 and 12:0. -/
def r6 (s : State) : Word :=
  (s.card.rca.setWidth 32 <<< 16) ||| (((cardStatus s >>> 23) &&& 1) <<< 15) |||
    (((cardStatus s >>> 22) &&& 1) <<< 14) ||| (((cardStatus s >>> 19) &&& 1) <<< 13) ||| (cardStatus s &&& 0x1FFF)

/-- Answer with an SPI frame, as a stream. -/
def respondFrame (f : List Byte) (s : State) : State := respond (.stream (ofBytes f)) s

/-- Answer with a native stream. -/
def respondStream (b : BitStream) (s : State) : State := respond (.stream b) s

/-- `spi?(X, Y)` (43_standard_commands.md): the SPI frame or the native stream, by SPI_MODE alone (30_encoding.md R92),
both built from the state the effects left (R99). -/
def respondBy (x : State → List Byte) (y : State → BitStream) (s : State) : State :=
  if s.params.spiMode then respondFrame (x s) s else respondStream (y s) s

/-- An unrecognized command (43_standard_commands.md R217). -/
def unrecognized (s : State) : State :=
  respondBy (r1Frame true) (fun _ => []) (logEvent .warning .unknownCommand s)

/-- A command that has no SPI form, arriving in SPI mode (R218). -/
def unsupportedSpi (s : State) : State :=
  respondFrame (r1Frame true s) (logEvent .warning .unsupportedInSpi s)

/-- A native-only command: rejected in SPI mode (R218), else its native effect. -/
def nativeOnly (f : State → State) (s : State) : State :=
  if s.params.spiMode then unsupportedSpi s else f s

end Sys2Proof.Machine
end

