-- ==== Sys2Proof/Machine/AppCommands.lean ====
section
/-! DEFINITION. The meanings of the application commands (44_app_commands.md R251 to R255). Each runs after the
dispatcher has consumed the app flag (43_standard_commands.md R200; log 18). -/

namespace Sys2Proof.Machine

/-- ACMD13 SD status (R251): `rd` is bound to the SD status register; R2 or STATUS. -/
def execAcmd13 (_a : Word) (s : State) : Host.Outcome State Fault Refusal :=
  .next (respondBy r2Frame statusStream { s with rd := s.rd.bindOverrideData (bits (sdStatus s)) })

/-- ACMD41 (R252): the idle flag is cleared before the response is built; R1 or OCR. -/
def execAcmd41 (_a : Word) (s : State) : Host.Outcome State Fault Refusal :=
  .next (respondBy (r1Frame false) (fun t => bits (ocr t)) (clearIdle s))

/-- ACMD51 (R255): `rd` is bound to the SD configuration register; R1 or STATUS. -/
def execAcmd51 (_a : Word) (s : State) : Host.Outcome State Fault Refusal :=
  .next (respondBy (r1Frame false) statusStream { s with rd := s.rd.bindOverrideData (bits (scr s)) })

end Sys2Proof.Machine
end

