-- ==== Sys2Proof/Machine/SpiBytes.lean ====
section
/-! DEFINITION. The meanings of the two byte rows of the table, FILL and TOKEN, and the framer's exchanges that run no
instruction (42_spi_framing.md R181 to R188). Each returns one byte. -/

namespace Sys2Proof.Machine

/-- Return one byte from an exchange. -/
def respondByte (x : Byte) (s : State) : State := respond (.byte x) s

/-- FILL (R181): the ready byte R1(false); no state changes. -/
def execFill (s : State) : Host.Outcome State Fault Refusal := .next (respondByte (r1 false s) s)

/-- TOKEN (R183): latch the number, clear the argument and its count, wait for argument bytes, return 0x00. -/
def execToken (n : BitVec 6) (s : State) : Host.Outcome State Fault Refusal :=
  .next (respondByte 0x00
    { s with spi := { s.spi with state := .waitingForArgBytes, cmdNum := n, arg := 0, argCount := 0 } })

/-- A malformed token (R182): a warning and R1(true); the framer stays, nothing is dispatched. -/
def malformedToken (s : State) : State := respondByte (r1 true s) (logEvent .warning .malformedToken s)

/-- An argument byte (R184): shifted in; after the fourth the framer waits for the CRC; 0x00 is returned.
A fourth byte is one that comes when three are counted already (R190); a count of four here is excluded by the
invariant of 10_state.md R34, and is read the same way (log 11). -/
def argumentByte (x : Byte) (s : State) : State :=
  respondByte 0x00
    (if s.spi.argCount.val < 3 then
      { s with spi := { s.spi with arg := shiftInByte s.spi.arg x, argCount := s.spi.argCount + 1 } }
    else
      { s with spi := { s.spi with arg := shiftInByte s.spi.arg x, argCount := 4, state := .waitingForCRC } })

/-- The bytes of the response the dispatcher left (R185); every dispatch leaves a stream. -/
def responseBytes (s : State) : List Byte :=
  match s.ret with
  | .stream b => bytes b
  | .byte _ => []
  | .bytes _ => []
  | .nothing => []

/-- After the dispatch on the CRC byte (R185, R186): queue the response and return its first byte; with no response
byte, warn, go back to waiting for a command, and return the free byte ZL_BYTE. -/
def startResponse (s : State) : State :=
  match responseBytes s with
  | q :: qs => respondByte q { s with spi := { s.spi with queue := qs, state := .sendingResponse } }
  | [] =>
    respondByte (Config.freeByte s.draws)
      { logEvent .warning .emptyResponse s with
        spi := { s.spi with state := .waitingForCommand }, draws := s.draws + 1 }

/-- An exchange while a response is being sent (R187): the next queued byte, or 0x00 and back to waiting for a
command. The input byte is discarded. -/
def sendByte (s : State) : State :=
  match s.spi.queue with
  | b :: rest => respondByte b { s with spi := { s.spi with queue := rest } }
  | [] => respondByte 0x00 { s with spi := { s.spi with state := .waitingForCommand } }

/-- `finishTransmission()` (R188): the whole frame is reset, whatever SPI_MODE; nothing is returned. -/
def finishTransmission (s : State) : State := respond .nothing { s with spi := SpiFrame.reset }

end Sys2Proof.Machine
end

