-- ==== Sys2Proof/Machine/StandardCommands.lean ====
section
/-! DEFINITION. The meanings of the standard commands (43_standard_commands.md R203 to R216). Each runs after the
dispatcher has consumed the app flag (R200; log 18) and leaves its response in `State.ret`. -/

namespace Sys2Proof.Machine

/-- CMD0 go-idle (R203): `reset()`, then R1 or EMPTY. The frame is reset whatever port the command came by. For a native
call on an SPI card R201 says that the port does not touch `spi`; the model follows R203 and R330: DESIGN CHOICE, unsafe
(log 25). -/
def execCmd0 (_a : Word) (s : State) : Host.Outcome State Fault Refusal :=
  .next (respondBy (r1Frame false) (fun _ => []) (resetCard s))

/-- CMD2 send-identification (R204): the CID; native only. -/
def execCmd2 (_a : Word) (s : State) : Host.Outcome State Fault Refusal :=
  .next (nativeOnly (fun t => respondStream (bits (cid t)) t) s)

/-- CMD3 send-relative-address (R205): RCA_STATUS; native only. -/
def execCmd3 (_a : Word) (s : State) : Host.Outcome State Fault Refusal :=
  .next (nativeOnly (fun t => respondStream (bits (r6 t)) t) s)

/-- CMD7 select/deselect (R206): STATUS, the argument not compared; native only. -/
def execCmd7 (_a : Word) (s : State) : Host.Outcome State Fault Refusal :=
  .next (nativeOnly (fun t => respondStream (statusStream t) t) s)

/-- CMD8 send-interface-condition (R207): R7 or STATUS; nothing is echoed. -/
def execCmd8 (_a : Word) (s : State) : Host.Outcome State Fault Refusal :=
  .next (respondBy r7Frame statusStream s)

/-- CMD9 send-specific-data (R208): R1 or the whole CSD. -/
def execCmd9 (_a : Word) (s : State) : Host.Outcome State Fault Refusal :=
  .next (respondBy (r1Frame false) (fun t => bits (csd t)) s)

/-- CMD12 stop-transmission (R209): both contexts reset; R1 or STATUS. -/
def execCmd12 (_a : Word) (s : State) : Host.Outcome State Fault Refusal :=
  .next (respondBy (r1Frame false) statusStream { s with rd := s.rd.resetCtx, wr := s.wr.resetCtx })

/-- CMD13 send-status (R215): R2 or STATUS. -/
def execCmd13 (_a : Word) (s : State) : Host.Outcome State Fault Refusal :=
  .next (respondBy r2Frame statusStream s)

/-- CMD16 set-block-length (R210): the whole argument is stored, unchecked; R1 or STATUS. -/
def execCmd16 (a : Word) (s : State) : Host.Outcome State Fault Refusal :=
  .next (respondBy (r1Frame false) statusStream { s with card := { s.card with blockLen := a } })

/-- The SPI half of CMD17 (R211): read the block through `rd`, note a short read, consume `rd`, and answer with the
read-data frame. -/
def readBlockInline (s : State) : State :=
  let data := memRead s.rd.offset.toNat s.card.blockLen.toNat s
  let t := noteShortRead data s.card.blockLen.toNat s
  orFault (t.rd.advance s.card.blockLen.toNat)
    (fun c => respondFrame (readDataFrame data t) { t with rd := c }) s

/-- CMD17 read-single-block (R211): `rd` is armed at a × blockLen for one block; in SPI mode the block is read and sent
at once. -/
def execCmd17 (a : Word) (s : State) : Host.Outcome State Fault Refusal :=
  let t := armRead (blockOffset a s) s.card.blockLen s
  .next (if s.params.spiMode then readBlockInline t else respondStream (statusStream t) t)

/-- CMD18 read-multiple-blocks (R212): only the read offset is set, the counter is kept; native only. -/
def execCmd18 (a : Word) (s : State) : Host.Outcome State Fault Refusal :=
  .next (nativeOnly
    (fun t => respondStream (statusStream t) { t with rd := t.rd.setOffset (blockOffset a t) }) s)

/-- CMD24 write-single-block (R213): `wr` is armed at a × blockLen for one block; native only. -/
def execCmd24 (a : Word) (s : State) : Host.Outcome State Fault Refusal :=
  .next (nativeOnly
    (fun t => respondStream (statusStream t) (armWrite (blockOffset a t) t.card.blockLen t)) s)

/-- CMD55 app-command marker (R214): the flag is set before the response is built. -/
def execCmd55 (_a : Word) (s : State) : Host.Outcome State Fault Refusal :=
  .next (respondBy (r1Frame false) statusStream (setAppFlag s))

/-- CMD58 read-OCR (R216): R3 with a zero payload, or EMPTY. -/
def execCmd58 (_a : Word) (s : State) : Host.Outcome State Fault Refusal :=
  .next (respondBy r3Frame (fun _ => []) s)

end Sys2Proof.Machine
end

