-- ==== Sys2Proof/Machine/Dispatch.lean ====
section
/-! DEFINITION. One arm per constructor of Instr. -/

namespace Sys2Proof.Machine

def exec (i : Instr) (s : State) : Host.Outcome State Fault Refusal :=
  match i with
  | .cmd0 a => Sys2Proof.Machine.execCmd0 a s
  | .cmd2 a => Sys2Proof.Machine.execCmd2 a s
  | .cmd3 a => Sys2Proof.Machine.execCmd3 a s
  | .cmd7 a => Sys2Proof.Machine.execCmd7 a s
  | .cmd8 a => Sys2Proof.Machine.execCmd8 a s
  | .cmd9 a => Sys2Proof.Machine.execCmd9 a s
  | .cmd12 a => Sys2Proof.Machine.execCmd12 a s
  | .cmd13 a => Sys2Proof.Machine.execCmd13 a s
  | .cmd16 a => Sys2Proof.Machine.execCmd16 a s
  | .cmd17 a => Sys2Proof.Machine.execCmd17 a s
  | .cmd18 a => Sys2Proof.Machine.execCmd18 a s
  | .cmd24 a => Sys2Proof.Machine.execCmd24 a s
  | .cmd55 a => Sys2Proof.Machine.execCmd55 a s
  | .cmd58 a => Sys2Proof.Machine.execCmd58 a s
  | .acmd13 a => Sys2Proof.Machine.execAcmd13 a s
  | .acmd41 a => Sys2Proof.Machine.execAcmd41 a s
  | .acmd51 a => Sys2Proof.Machine.execAcmd51 a s
  | .fill => Sys2Proof.Machine.execFill s
  | .token n => Sys2Proof.Machine.execToken n s

end Sys2Proof.Machine
end

