-- ==== Sys2Proof/Machine/Ports.lean ====
section
/-! DEFINITION. The ports: the command dispatcher, the SPI framer, every port call, and how a table word is placed
where the next step takes it. -/

namespace Sys2Proof.Machine

/-- The number is in the application table (44_app_commands.md R250). -/
def isAppNumber (n : Word) : Bool := decide (n = 13) || decide (n = 41) || decide (n = 51)

/-- The first lines of dispatch (43_standard_commands.md R200): the flag is consumed, and a debug event says so when it
was set for a number the application table does not hold. -/
def consumeAppFlag (n : Word) (s : State) : State :=
  if s.card.appCmd && !isAppNumber n then logEvent .debug .notAppCommand (clearAppFlag s) else clearAppFlag s

/-- `dispatch(n, a)` (R200): consume the flag, then run the command the number stands for under the flag as it was, or
answer as unrecognized (R217). -/
def dispatch (n a : Word) (s : State) : Host.Outcome State Fault Refusal :=
  match decodeCommand s.card.appCmd n a with
  | .ok i => exec i (consumeAppFlag n s)
  | .error _ => .next (unrecognized (consumeAppFlag n s))

/-- `transmit(x)` (42_spi_framing.md R180 to R187). With SPI_MODE false it is contract fault F1 and returns 0x00;
else the framer's state alone says what the byte means (30_encoding.md R83). -/
def transmit (x : Byte) (s : State) : Host.Outcome State Fault Refusal :=
  if s.params.spiMode then
    match s.spi.state with
    | .waitingForCommand =>
      match decodeByte x with
      | .ok i => exec i s
      | .error _ => .next (malformedToken s)
    | .waitingForArgBytes => .next (argumentByte x s)
    | .waitingForCRC => onNext (dispatch (s.spi.cmdNum.setWidth 32) s.spi.arg s) startResponse
    | .sendingResponse => .next (sendByte s)
  else .next (respondByte 0x00 (contractFault .spiDisabled s))

/-- `dispose()` (70_reset_and_hazards.md R335): no later call is accepted (20_memory.md R69). -/
def dispose (s : State) : State := respond .nothing { s with disposed := true }

/-- One port call (70_reset_and_hazards.md R346). The native port is the dispatcher and leaves `spi` to the handler: of all
handlers it can reach, CMD0's alone resets it (43_standard_commands.md R201, R203; log 25). -/
def portCall (c : PortCall) (s : State) : Host.Outcome State Fault Refusal :=
  match c with
  | .handleCommand n a => dispatch n a s
  | .transmit x => transmit x s
  | .finishTransmission => .next (finishTransmission s)
  | .readData n => .next (readData n s)
  | .writeData v => .next (writeData v s)
  | .setReadLimit k => .next (setReadLimit k s)
  | .readRegister r => readRegister r s
  | .reset => .next (respond .nothing (resetCard s))
  | .dispose => .next (dispose s)

/-- Hand the call's result to the host (00_scope.md R15; 70_reset_and_hazards.md R345). -/
def deliver (s : State) : State := { s with returned := s.returned ++ [s.ret] }

/-- Take the oldest pending port call and execute it as one atomic step (00_scope.md R15, R18). With none pending the
card does nothing (log 2); after `dispose` every call is refused (20_memory.md R69). -/
def runNextCall (s : State) : Host.Outcome State Fault Refusal :=
  match s.pending with
  | [] => .next s
  | c :: rest =>
    if s.disposed then .refused .disposed
    else onNext (portCall c { s with pending := rest }) deliver

/-- Place a whole command as the next port call: the native call of its number and argument, with the app flag as the
command's table requires where the number is in the application table (log 14). -/
def placeCommand (i : Instr) (n a : Word) (s : State) : State :=
  { s with
    pending := .handleCommand n a :: s.pending
    card := { s.card with appCmd := if isAppNumber n then i.isApp else s.card.appCmd } }

/-- Place one byte as the next exchange of a framer that waits for a command (log 14). -/
def placeByte (x : Byte) (s : State) : State :=
  { s with pending := .transmit x :: s.pending, spi := SpiFrame.reset }

/-- Place a word of spec/opcode_table.json so that the very next step runs the instruction the decoder reads from it. -/
def placeTableWord (nbits w : Nat) (s : State) : State :=
  match tableBytes nbits w with
  | b0 :: b1 :: b2 :: b3 :: b4 :: _ =>
    match decodeTableWord nbits w with
    | some (.token _) => placeByte b0 s
    | some .fill => placeByte b0 s
    | some i => placeCommand i ((tokenNumber b0).setWidth 32) (argOfBytes b1 b2 b3 b4) s
    | none => placeByte b0 s
  | _ => s

end Sys2Proof.Machine
end

