-- ==== Sys2Proof/Machine/Step.lean ====
section
/-! DEFINITION. One step of the machine, and where an instruction is placed for the next one. -/

namespace Sys2Proof.Machine

/-- One step: the oldest pending port call, as one atomic action (00_scope.md R15). -/
def step (s : State) : Host.Outcome State Fault Refusal := runNextCall s

/-- `s` with the table's word of `nbits` bits placed where `step` takes its next instruction (log 14). -/
def State.withFetchWord (s : State) (nbits w : Nat) : State := placeTableWord nbits w s

end Sys2Proof.Machine
end

