-- ==== Sys2Proof/Machine/Capacity.lean ====
section
/-! DEFINITION. The capacity deriver (40_register_composer.md R140 to R144). -/

namespace Sys2Proof.Machine

/-- A point of the deriver's search space: multiplier, device size, block-length code (R140). -/
structure Triple where
  m : Nat
  d : Nat
  b : Nat
  deriving DecidableEq, Repr

/-- `decode(m, d, b)`: the byte length a triple encodes (R140). -/
def Triple.length (t : Triple) : Nat := (t.d + 1) * 2 ^ (t.m + 2) * 2 ^ t.b

/-- For a request `r` and given multiplier and code, the triple of smallest admissible device size, if there is one
(R141). -/
def smallestTriple (r m b : Nat) : Option Triple :=
  let unit := 2 ^ (m + 2 + b)
  let count := max 1 ((r + unit - 1) / unit)
  if count ≤ 4096 then some { m := m, d := count - 1, b := b } else none

/-- The candidates for a request, in the order of R140: block-length code ascending, then multiplier ascending. -/
def candidates (r blMin blMax : Nat) : List Triple :=
  (List.range' blMin (blMax + 1 - blMin)).flatMap fun b => (List.range 8).filterMap fun m => smallestTriple r m b

/-- The first triple of least length: a later one replaces it only if strictly shorter. -/
def firstShortest : Triple → List Triple → Triple
  | best, [] => best
  | best, t :: ts => firstShortest (if t.length < best.length then t else best) ts

/-- `deriveCapacity(R)` (R140): the chosen triple; `none` is `ConfigError(CapacityUnencodable)`. -/
def deriveCapacity (r blMin blMax : Nat) : Option Triple :=
  match candidates r blMin blMax with
  | [] => none
  | t :: ts => some (firstShortest t ts)

end Sys2Proof.Machine
end

