-- ==== Sys2Proof/WellFormed.lean ====
section
/-! DEFINITION. Well-formedness of instructions and of construction parameters. -/

namespace Sys2Proof

/-- Every instruction is well-formed: the operand types are exactly the widths of 30_encoding.md R84 (a 32-bit
argument, a 6-bit number), no command restricts its argument (R85), and an SPI command may carry any argument.
One arm a constructor, so that an instruction added later must be considered here. -/
def Instr.wf : Instr → Bool
  | .cmd0 _ | .cmd2 _ | .cmd3 _ | .cmd7 _ | .cmd8 _ | .cmd9 _ | .cmd12 _ => true
  | .cmd13 _ | .cmd16 _ | .cmd17 _ | .cmd18 _ | .cmd24 _ | .cmd55 _ | .cmd58 _ => true
  | .acmd13 _ | .acmd41 _ | .acmd51 _ => true
  | .fill => true
  | .token _ => true

/-- The CSD bits that belong to the geometry: 47..49, 62..73 and 80..83 (40_register_composer.md R133). -/
def csdGeometryMask : BitVec 128 := (7 <<< 47) ||| (4095 <<< 62) ||| (15 <<< 80)

/-- The parameters have the types 00_scope.md R9 gives them: CSD_BASE is zero at the geometry's bits. -/
def Params.wf (p : Params) : Bool := p.csdBase &&& csdGeometryMask == 0

end Sys2Proof
end

