-- ==== Sys2Proof/Machine/Construct.lean ====
section
/-! DEFINITION. Construction (70_reset_and_hazards.md R333). -/

namespace Sys2Proof.Machine

/-- The store's contents at construction, from a list of cells: later cells win, cells outside the store are dropped,
and every byte no cell names is what an unlisted address reads as. Every byte sequence of the store's length is the
contents some list gives. -/
def initialStore (len : Nat) (cells : List Host.Cell) : Memory :=
  (cells.filter fun c => decide (c.1 < len)).foldl (fun m c => m.writeByte c.1 c.2) []

/-- The geometry fields of a triple (10_state.md R35). -/
def geometryOf (t : Triple) : Geometry where
  m := BitVec.ofNat 3 t.m
  d := BitVec.ofNat 12 t.d
  b := BitVec.ofNat 4 t.b

/-- The card of a derived geometry (R333 steps 2 to 4). -/
def freshCard (p : Params) (init : List Host.Cell) (t : Triple) : State where
  params := p
  card := { isIdle := true, appCmd := false, rca := p.cardAddress, blockLen := p.blockLenInit }
  rd := IoCtx.reset
  wr := IoCtx.reset
  spi := SpiFrame.reset
  geom := geometryOf t
  storeLen := t.length
  store := initialStore t.length init
  fault := FaultSet.empty
  log := []
  disposed := false
  pending := []
  ret := .nothing
  returned := []
  draws := 0

/-- Construction with given parameters and store contents (R333): a card, or the configuration error of
60_exceptions.md R302 when no geometry encodes the request. -/
def construct (p : Params) (init : List Host.Cell) : Host.Outcome State Fault Refusal :=
  if p.wf then
    match deriveCapacity p.requestedCapacity p.blMin.val p.blMax.val with
    | some t => .next (freshCard p init t)
    | none => .fault .capacityUnencodable
  else .refused .illFormedParameters

end Sys2Proof.Machine
end

