-- ==== Sys2Proof/Safety.lean ====
section
/-! DEFINITION. What counts as a safe run, the invariant of reachable states, and the words the statements use. -/

namespace Sys2Proof.Machine

/-- No contract fault has been recorded: a run ending otherwise is a failed run (60_exceptions.md R303). -/
abbrev State.Unfaulted (s : State) : Prop := s.fault = FaultSet.empty

/-- A context is well-formed (41_io_context.md R168a): a bit cursor is a multiple of 8 inside the bound stream, which
is a whole number of bytes, at most 512 bits (R165). -/
def IoCtx.wf : IoCtx → Bool
  | .store _ _ => true
  | .override d p _ =>
    decide (p.toNat % 8 = 0) && decide (p.toNat ≤ d.length) && decide (d.length % 8 = 0) && decide (d.length ≤ 512)

/-- The context is store-bound (10_state.md R27). -/
def IoCtx.isStore : IoCtx → Bool
  | .store _ _ => true
  | .override _ _ _ => false

/-- The frame invariant (10_state.md R34): no queued byte outside SendingResponse, and at most three argument bytes
counted while waiting for argument bytes. -/
def SpiFrame.wf (f : SpiFrame) : Bool :=
  (f.state == .sendingResponse || f.queue == []) && (f.state != .waitingForArgBytes || decide (f.argCount.val ≤ 3))

/-- The byte length a geometry encodes: `decode(m, d, b)` (40_register_composer.md R140). -/
def Geometry.length (g : Geometry) : Nat := (g.d.toNat + 1) * 2 ^ (g.m.toNat + 2) * 2 ^ g.b.toNat

/-- The invariant of every reachable state: the store's cells are canonical and inside the store; the write context is
store-bound (10_state.md R29); the read context is well-formed (41_io_context.md R168); the frame is well-formed
(10_state.md R34); the geometry encodes STORE_LEN (R35); the card address is the construction parameter's (R23). -/
abbrev State.Inv (s : State) : Prop :=
  s.store.wf = true ∧ s.store.below s.storeLen = true ∧ s.wr.isStore = true ∧ s.rd.wf = true ∧ s.spi.wf = true ∧
    s.geom.length = s.storeLen ∧ s.card.rca = s.params.cardAddress

/-- `k` steps, stopping at the first that does not answer a next state (`Host.Core.run` of `core`, in State's own
type). -/
def steps : Nat → State → Host.Outcome State Fault Refusal
  | 0, s => .next s
  | k + 1, s =>
    match step s with
    | .next t => steps k t
    | .fault r => .fault r
    | .refused r => .refused r

/-- The number and argument the next step dispatches, if it dispatches (43_standard_commands.md R201,
42_spi_framing.md R185). -/
def State.dispatched (s : State) : Option (Word × Word) :=
  match s.pending with
  | .handleCommand n a :: _ => some (n, a)
  | .transmit _ :: _ =>
    if s.params.spiMode && s.spi.state == .waitingForCRC then some (s.spi.cmdNum.setWidth 32, s.spi.arg) else none
  | .finishTransmission :: _ | .readData _ :: _ | .writeData _ :: _ | .setReadLimit _ :: _ => none
  | .readRegister _ :: _ | .reset :: _ | .dispose :: _ => none
  | [] => none

/-- The next step is the container's `reset()`. -/
def State.resetting (s : State) : Bool := s.pending.head? == some .reset

/-- The standard table (30_encoding.md R86): each number and its command. -/
def standardTable : List (Word × (Word → Instr)) :=
  [(0, .cmd0), (2, .cmd2), (3, .cmd3), (7, .cmd7), (8, .cmd8), (9, .cmd9), (12, .cmd12), (13, .cmd13), (16, .cmd16),
    (17, .cmd17), (18, .cmd18), (24, .cmd24), (55, .cmd55), (58, .cmd58)]

/-- The application table (44_app_commands.md R250). -/
def applicationTable : List (Word × (Word → Instr)) := [(13, .acmd13), (41, .acmd41), (51, .acmd51)]

/-- The state the handlers of a dispatched command start from (43_standard_commands.md R200): the flag cleared, and
one debug event more when the flag was set for a number outside the application table. -/
def State.afterConsume (s : State) (n : Word) : State :=
  { s with
    card := { s.card with appCmd := false }
    log := if s.card.appCmd ∧ n ∉ applicationTable.map (·.1) then s.log ++ [⟨.debug, .notAppCommand⟩] else s.log }

end Sys2Proof.Machine
end

