-- ==== Sys2Proof/Certificates/Slice0/Obligations.lean ====
section
/-! DEFINITION. The statements for the provers. Each docstring names the rule of spec/ it formalises. "The spec's
decision D<n>" is 92_eei_decisions.md's; "log n" is notes/assumptions/n.md. -/

open Sys2Proof Sys2Proof.Machine

/-! ### Encoding -/

/-- Words written out bit by bit from 30_encoding.md R81, R82, R86 and R89 decode to what they stand for: every family
of the table, an application number with and without the flag, and a malformed byte. The numbers are the spec's
decision D2. That a whole frame of number 41 without the flag is read as TOKEN, with its five other bytes left, is the
model's choice (log 13). -/
def Obligations.WrittenWordsDecode : Prop :=
  decode false [0b01000000, 0, 0, 0, 0, 0x95] = .ok (.cmd0 0, []) ∧
  decode false [0b01010001, 0x00, 0x00, 0x02, 0x00, 0x12] = .ok (.cmd17 0x200, []) ∧
  decode false [0b01010000, 0xFF, 0x40, 0xFF, 0x40, 0x00, 0xFF] = .ok (.cmd16 0xFF40FF40, [0xFF]) ∧
  decode false [0b01001101, 0, 0, 0, 1, 0] = .ok (.cmd13 1, []) ∧
  decode true [0b01001101, 0, 0, 0, 1, 0] = .ok (.acmd13 1, []) ∧
  decode true [0b01101001, 0x40, 0, 0, 0, 0] = .ok (.acmd41 0x40000000, []) ∧
  decode false [0b01101001, 0x40, 0, 0, 0, 0] = .ok (.token 41, [0x40, 0, 0, 0, 0]) ∧
  decode false [0b11111111] = .ok (.fill, []) ∧
  decode false [0b01111010] = .ok (.token 58, []) ∧
  decode true [0b10000000] = .error (.malformedToken 0x80)

/-- DECODE AND ENCODE AGREE. Every well-formed instruction, encoded with any CRC byte and followed by any bytes, is
read back with those bytes left, under every app flag it is read under (30_encoding.md R81 to R88). A token is
followed by fewer than five bytes, or its number is in no table read under the flag (log 13). -/
def Obligations.DecodeEncodeAgree : Prop :=
  ∀ (i : Instr) (crc : Byte) (app : Bool) (rest : List Byte),
    i.wf = true → i.readUnder app = true →
    (∀ n, i = .token n → rest.length < 5 ∨
      (n.setWidth 32 ∉ standardTable.map (·.1) ∧ (app = true → n.setWidth 32 ∉ applicationTable.map (·.1)))) →
    decode app (encodeWith crc i ++ rest) = .ok (i, rest)

/-- Every run of bytes that decodes is an encoding of what it decodes to: nothing but the CRC byte is dropped, and the
instruction is one read under the flag (30_encoding.md R81, R84, R87). -/
def Obligations.EncodeDecodeAgree : Prop :=
  ∀ (app : Bool) (bs rest : List Byte) (i : Instr),
    decode app bs = .ok (i, rest) → i.readUnder app = true ∧ ∃ crc, bs = encodeWith crc i ++ rest

/-! ### The step -/

/-- A STEP RUNS THE DECODED INSTRUCTION, in the three places an instruction is fetched: a byte exchanged while the
framer waits for a command, a native call, and the CRC byte of a frame; and it runs the port operation a data, limit or
accessor call names (45_data_transfer.md R270 to R278), or for a native call the dispatcher, whatever its number, so one
in no table that applies is answered as unrecognized (43_standard_commands.md R201, R217). Around them the step takes the call off `pending` (log 1),
consumes the app flag before a dispatched command (43_standard_commands.md R200), starts the response after a CRC byte
(42_spi_framing.md R185), and hands the result to the host (log 3). That a native CMD0 runs as any other, resetting
the frame of an SPI card too, is the model's choice (log 25). -/
def Obligations.StepRunsDecodedInstruction : Prop :=
  ∀ (s : State) (rest : List PortCall), s.disposed = false →
    (∀ i : Instr, i.wf = true →
      (∀ x, s.pending = .transmit x :: rest → s.params.spiMode = true → s.spi.state = .waitingForCommand →
        decodeByte x = .ok i →
        step s = onNext (exec i { s with pending := rest }) fun t => { t with returned := t.returned ++ [t.ret] }) ∧
      (∀ n a, s.pending = .handleCommand n a :: rest → decodeCommand s.card.appCmd n a = .ok i →
        step s = onNext (exec i ({ s with pending := rest }.afterConsume n)) fun t =>
          { t with returned := t.returned ++ [t.ret] }) ∧
      (∀ x, s.pending = .transmit x :: rest → s.params.spiMode = true → s.spi.state = .waitingForCRC →
        decodeCommand s.card.appCmd (s.spi.cmdNum.setWidth 32) s.spi.arg = .ok i →
        step s = onNext (onNext (exec i ({ s with pending := rest }.afterConsume (s.spi.cmdNum.setWidth 32))) startResponse)
          fun t => { t with returned := t.returned ++ [t.ret] })) ∧
    (∀ n a, s.pending = .handleCommand n a :: rest →
      step s = onNext (dispatch n a { s with pending := rest }) fun t => { t with returned := t.returned ++ [t.ret] }) ∧
    (∀ n, s.pending = .readData n :: rest →
      let t := readData n { s with pending := rest }
      step s = .next { t with returned := t.returned ++ [t.ret] }) ∧
    (∀ v, s.pending = .writeData v :: rest →
      let t := writeData v { s with pending := rest }
      step s = .next { t with returned := t.returned ++ [t.ret] }) ∧
    (∀ k, s.pending = .setReadLimit k :: rest →
      let t := setReadLimit k { s with pending := rest }
      step s = .next { t with returned := t.returned ++ [t.ret] }) ∧
    (∀ r, s.pending = .readRegister r :: rest →
      step s = onNext (readRegister r { s with pending := rest }) fun t => { t with returned := t.returned ++ [t.ret] })

/-- The card never steps unprompted (00_scope.md R18; that a step without a call leaves the state as it is, is the
model's choice, log 2), and after `dispose` every call is refused (20_memory.md R69, the spec's decision D43). That
`dispose` itself sets a flag of the model's and leaves the store's bytes in the state is the model's choice (log 16). -/
def Obligations.IdleStepAndDisposedStep : Prop :=
  (∀ s : State, s.pending = [] → step s = .next s) ∧
  (∀ (s : State) (c : PortCall) (rest : List PortCall),
    s.pending = c :: rest → s.disposed = true → step s = .refused .disposed) ∧
  (∀ (s : State) (rest : List PortCall), s.pending = .dispose :: rest → s.disposed = false →
    step s = .next { s with
      pending := rest, disposed := true, ret := .nothing, returned := s.returned ++ [.nothing] })

/-! ### Standard commands -/

/-- CMD0 (43_standard_commands.md R203, 70_reset_and_hazards.md R330): both contexts, both flags and the frame are
reset, and nothing else; R1 with the idle bit set in SPI mode, EMPTY in native mode. The scope of the reset is the
spec's decision D25, the R1 value D5. That a native call on an SPI card resets the frame too, where R201 says its port
does not touch it, is the model's choice (log 25). -/
def Obligations.GoIdleResetsCard : Prop :=
  ∀ (a : Word) (s : State), exec (.cmd0 a) s = .next { s with
    rd := .store 0 0, wr := .store 0 0, card := { s.card with isIdle := true, appCmd := false }
    spi := { state := .waitingForCommand, cmdNum := 0, arg := 0, argCount := 0, queue := [] }
    ret := .stream (if s.params.spiMode then ofBytes [0x01] else []) }

/-- CMD2 (43_standard_commands.md R204): the 128-bit CID in native mode; rejected with an illegal-command R1 in SPI mode
(R218, the spec's decision D11). No other effect. -/
def Obligations.SendIdentificationReply : Prop :=
  ∀ (a : Word) (s : State),
    (s.params.spiMode = false → exec (.cmd2 a) s = .next { s with ret := .stream (bits s.params.cid) }) ∧
    (s.params.spiMode = true → exec (.cmd2 a) s = .next { s with
      log := s.log ++ [⟨.warning, .unsupportedInSpi⟩], ret := .stream (ofBytes [r1 true s]) })

/-- CMD3 (43_standard_commands.md R205): the card address over the status bits in native mode; rejected in SPI mode.
The packing and the status layout are the spec's decisions D17 and D18. -/
def Obligations.SendRelativeAddressReply : Prop :=
  ∀ (a : Word) (s : State),
    (s.params.spiMode = false → exec (.cmd3 a) s = .next { s with
      ret := .stream (bits (s.card.rca ++ (if s.card.appCmd then 0x0120#16 else 0x0100#16))) }) ∧
    (s.params.spiMode = true → exec (.cmd3 a) s = .next { s with
      log := s.log ++ [⟨.warning, .unsupportedInSpi⟩], ret := .stream (ofBytes [r1 true s]) })

/-- CMD7 (43_standard_commands.md R206): STATUS in native mode whatever the argument, no state written; in SPI mode
`unsupportedSpi(7)`. -/
def Obligations.SelectDeselectReply : Prop :=
  ∀ (a : Word) (s : State),
    (s.params.spiMode = false → exec (.cmd7 a) s = .next { s with ret := .stream (bits (cardStatus s)) }) ∧
    (s.params.spiMode = true → exec (.cmd7 a) s = .next (unsupportedSpi s))

/-- CMD8 (43_standard_commands.md R207): R7, with four zero payload bytes whatever the argument, or STATUS; no state
written. -/
def Obligations.SendInterfaceConditionReply : Prop :=
  ∀ (a : Word) (s : State), exec (.cmd8 a) s = .next { s with
    ret := .stream (if s.params.spiMode then ofBytes [r1 false s, 0, 0, 0, 0] else bits (cardStatus s)) }

/-- CMD9 (43_standard_commands.md R208): the one R1 byte in SPI mode, the whole CSD in native mode; no state written. -/
def Obligations.SendCsdReply : Prop :=
  ∀ (a : Word) (s : State), exec (.cmd9 a) s = .next { s with
    ret := .stream (if s.params.spiMode then ofBytes [r1 false s] else bits (csd s)) }

/-- CMD12 (43_standard_commands.md R209): both contexts are reset, a binding dropped too, so a following read of one
byte returns nothing and warns; R1 or STATUS. -/
def Obligations.StopTransmissionResetsContexts : Prop :=
  ∀ (a : Word) (s : State),
    ∃ t, exec (.cmd12 a) s = .next t ∧
      t = { s with
        rd := .store 0 0, wr := .store 0 0
        ret := .stream (if s.params.spiMode then ofBytes [r1 false s] else bits (cardStatus s)) } ∧
      readData 1 t = { t with log := t.log ++ [⟨.warning, .readRejected⟩], ret := .bytes [] }

/-- CMD13 (43_standard_commands.md R215), with the app flag clear on arrival: R2 or STATUS, no state written, and the
APP_CMD bit of the native STATUS is 0. -/
def Obligations.SendStatusReply : Prop :=
  ∀ (a : Word) (s : State), s.card.appCmd = false →
    dispatch 13 a s = exec (.cmd13 a) s ∧
    exec (.cmd13 a) s = .next { s with
      ret := .stream (if s.params.spiMode then ofBytes [r1 false s, 0x00] else bits (cardStatus s)) } ∧
    (cardStatus s).getLsbD 5 = false

/-- CMD16 (43_standard_commands.md R210): the whole argument is stored as the block length, with no range check; R1 or
STATUS. -/
def Obligations.SetBlockLengthStoresArgument : Prop :=
  ∀ (a : Word) (s : State), exec (.cmd16 a) s = .next { s with
    card := { s.card with blockLen := a }
    ret := .stream (if s.params.spiMode then ofBytes [r1 false s] else bits (cardStatus s)) }

/-- CMD17 in native mode (43_standard_commands.md R211): `rd` is store-bound at a × blockLen mod 2^32 with blockLen bytes
left, whatever it was before; STATUS. The wrap of the product is the spec's decision D14. -/
def Obligations.ReadSingleBlockArmsRead : Prop :=
  ∀ (a : Word) (s : State), s.params.spiMode = false → exec (.cmd17 a) s = .next { s with
    rd := .store (BitVec.ofNat 32 (a.toNat * s.card.blockLen.toNat)) s.card.blockLen
    ret := .stream (bits (cardStatus s)) }

/-- CMD17 in SPI mode (43_standard_commands.md R211): the block's bytes that lie in the store are sent after R1 and the
marker 0xFE, a short block is warned of, and `rd` is left consumed just past the block. The marker, the missing CRC
and the consumed context are the spec's decision D12, the wraps D14. That a block is cut at 2^32 in a larger store is
the model's choice (log 24). -/
def Obligations.ReadSingleBlockSendsBlock : Prop :=
  ∀ (a : Word) (s : State), s.params.spiMode = true →
    let off := (a.toNat * s.card.blockLen.toNat) % 2 ^ 32
    let k := min s.card.blockLen.toNat (min s.storeLen (2 ^ 32) - off)
    ∃ t, exec (.cmd17 a) s = .next t ∧
      t = { s with
        rd := .store (BitVec.ofNat 32 off + s.card.blockLen) 0
        log := if k < s.card.blockLen.toNat then s.log ++ [⟨.warning, .shortRead⟩] else s.log
        ret := t.ret } ∧
      ∃ r, t.ret = .stream r ∧
        bytes r = r1 false s :: 0xFE :: (List.range k).map fun j => s.store.readByte (off + j)

/-- CMD18 (43_standard_commands.md R212): in native mode the read offset is set to a × blockLen mod 2^32, any binding is
dropped, and the counter is the stored one (10_state.md R28); STATUS. Rejected in SPI mode. The kept counter is the
spec's decision D13, the wrap D14, the rejection D11. -/
def Obligations.ReadMultipleBlocksSetsOffset : Prop :=
  ∀ (a : Word) (s : State),
    (s.params.spiMode = false → exec (.cmd18 a) s = .next { s with
      rd := .store (BitVec.ofNat 32 (a.toNat * s.card.blockLen.toNat))
        (match s.rd with
          | .store _ k => k
          | .override _ _ k => k)
      ret := .stream (bits (cardStatus s)) }) ∧
    (s.params.spiMode = true → exec (.cmd18 a) s = .next { s with
      log := s.log ++ [⟨.warning, .unsupportedInSpi⟩], ret := .stream (ofBytes [r1 true s]) })

/-- CMD24 (43_standard_commands.md R213): in native mode `wr` is armed at a × blockLen mod 2^32 with blockLen bytes;
STATUS. Rejected in SPI mode. The wrap is the spec's decision D14, the rejection D11. -/
def Obligations.WriteSingleBlockArmsWrite : Prop :=
  ∀ (a : Word) (s : State),
    (s.params.spiMode = false → exec (.cmd24 a) s = .next { s with
      wr := .store (BitVec.ofNat 32 (a.toNat * s.card.blockLen.toNat)) s.card.blockLen
      ret := .stream (bits (cardStatus s)) }) ∧
    (s.params.spiMode = true → exec (.cmd24 a) s = .next { s with
      log := s.log ++ [⟨.warning, .unsupportedInSpi⟩], ret := .stream (ofBytes [r1 true s]) })

/-- CMD55 (43_standard_commands.md R214): the app flag is set, and the native STATUS built after it has APP_CMD 1; R1 in
SPI mode. -/
def Obligations.AppCommandMarkerSetsFlag : Prop :=
  ∀ (a : Word) (s : State),
    ∃ t, exec (.cmd55 a) s = .next t ∧
      t = { s with
        card := { s.card with appCmd := true }
        ret := .stream (if s.params.spiMode then ofBytes [r1 false s] else bits (cardStatus t)) } ∧
      (cardStatus t).getLsbD 5 = true

/-- CMD58 (43_standard_commands.md R216): R3 with four zero payload bytes, or EMPTY; no state written, so the card stays
idle if it was. -/
def Obligations.ReadOcrReply : Prop :=
  ∀ (a : Word) (s : State), exec (.cmd58 a) s = .next { s with
    ret := .stream (if s.params.spiMode then ofBytes [r1 false s, 0, 0, 0, 0] else []) }

/-! ### Application commands -/

/-- ACMD13 (44_app_commands.md R251): `rd` is bound to the SD status register at bit 0 with its counter kept, so 64 bytes
are left; R2 or STATUS. Dispatched, it is number 13 with the app flag set on arrival, and the native STATUS has
APP_CMD 0. -/
def Obligations.SdStatusBindsRead : Prop :=
  ∀ (a : Word) (s : State),
    (∃ t, exec (.acmd13 a) s = .next t ∧
      t = { s with
        rd := .override (bits (sdStatus s)) 0 s.rd.counter
        ret := .stream (if s.params.spiMode then ofBytes [r1 false s, 0x00] else bits (cardStatus s)) } ∧
      t.rd.bytesLeft = 64) ∧
    (s.card.appCmd = true → dispatch 13 a s = exec (.acmd13 a) (s.afterConsume 13) ∧
      (cardStatus (s.afterConsume 13)).getLsbD 5 = false)

/-- ACMD41 (44_app_commands.md R252): the idle flag is cleared before the response is built, so the SPI R1 is 0x00; the
native response is the OCR. A second one answers the same. -/
def Obligations.OpCondLeavesIdle : Prop :=
  ∀ (a : Word) (s : State),
    ∃ t, exec (.acmd41 a) s = .next t ∧
      t = { s with
        card := { s.card with isIdle := false }
        ret := .stream (if s.params.spiMode then ofBytes [0x00] else bits (ocr s)) } ∧
      ∀ a', exec (.acmd41 a') t = .next t

/-- ACMD51 (44_app_commands.md R255): `rd` is bound to the SD configuration register at bit 0 with its counter kept, so
8 bytes are left, `readData(8)` returns the register and one byte more returns nothing and warns; R1 or STATUS.
Dispatched, it is number 51 with the app flag set on arrival, and the native STATUS has APP_CMD 0. -/
def Obligations.ScrBindsRead : Prop :=
  ∀ (a : Word) (s : State),
    (∃ t, exec (.acmd51 a) s = .next t ∧
      t = { s with
        rd := .override (bits (scr s)) 0 s.rd.counter
        ret := .stream (if s.params.spiMode then ofBytes [r1 false s] else bits (cardStatus s)) } ∧
      t.rd.bytesLeft = 8 ∧
      (readData 8 t).ret = .bytes (bytes (bits (scr s))) ∧
      readData 1 (readData 8 t) = { readData 8 t with
        log := (readData 8 t).log ++ [⟨.warning, .readRejected⟩], ret := .bytes [] }) ∧
    (s.card.appCmd = true → dispatch 51 a s = exec (.acmd51 a) (s.afterConsume 51) ∧
      (cardStatus (s.afterConsume 51)).getLsbD 5 = false)

/-! ### SPI bytes -/

/-- FILL (42_spi_framing.md R181): the ready byte, 0x01 while idle and 0x00 otherwise, and no state change. The value is
the spec's decision D6. -/
def Obligations.FillerReturnsReadyByte : Prop :=
  ∀ s : State, exec .fill s = .next { s with ret := .byte (if s.card.isIdle then 0x01 else 0x00) }

/-- TOKEN (42_spi_framing.md R183): the six low bits are latched, the argument and its count cleared, the framer waits
for argument bytes, 0x00 is returned. The returned byte is the spec's decision D7, the clearing D44. -/
def Obligations.TokenLatchesNumber : Prop :=
  ∀ (x : Byte) (s : State), x &&& 0xC0 = 0x40 →
    decodeByte x = .ok (.token (x.extractLsb' 0 6)) ∧
    exec (.token (x.extractLsb' 0 6)) s = .next { s with
      spi := { state := .waitingForArgBytes, cmdNum := x.extractLsb' 0 6, arg := 0, argCount := 0, queue := s.spi.queue }
      ret := .byte 0x00 }

/-- A malformed token (42_spi_framing.md R182, 30_encoding.md R89): a byte of 0x00..0x3F or 0x80..0xFE while the framer
waits for a command gets R1(true) and a warning; nothing else changes, so nothing is dispatched and the app flag is
not consumed (the spec's decision D30). -/
def Obligations.MalformedTokenAnswer : Prop :=
  ∀ (x : Byte) (s : State) (rest : List PortCall),
    s.pending = .transmit x :: rest → s.disposed = false → s.params.spiMode = true →
    s.spi.state = .waitingForCommand → (x.toNat < 0x40 ∨ (0x80 ≤ x.toNat ∧ x.toNat ≤ 0xFE)) →
    step s = .next { s with
      pending := rest
      log := s.log ++ [⟨.warning, .malformedToken⟩]
      ret := .byte (if s.card.isIdle then 0x05 else 0x04)
      returned := s.returned ++ [.byte (if s.card.isIdle then 0x05 else 0x04)] }

/-- The first five bytes of a frame (42_spi_framing.md R183, R184): whatever the argument bytes are, five exchanges from
WaitingForCommand leave the number latched and the argument assembled big-endian, the framer waiting for the CRC, and
five 0x00 bytes returned. And one argument byte by itself, whatever calls came since the last: it is shifted in; the
framer waits for more before the fourth, and for the CRC from the fourth on. The returned bytes are the spec's decision
D7. -/
def Obligations.FrameLatchesCommand : Prop :=
  (∀ (n : BitVec 6) (a : Word) (crc : Byte) (s : State) (rest : List PortCall),
    s.pending = (frame n a crc).map .transmit ++ rest → s.disposed = false → s.params.spiMode = true →
    s.spi.state = .waitingForCommand →
    steps 5 s = .next { s with
      pending := .transmit crc :: rest
      spi := { state := .waitingForCRC, cmdNum := n, arg := a, argCount := 4, queue := s.spi.queue }
      ret := .byte 0x00
      returned := s.returned ++ List.replicate 5 (.byte 0x00) }) ∧
  (∀ (x : Byte) (s : State) (rest : List PortCall),
    s.pending = .transmit x :: rest → s.disposed = false → s.params.spiMode = true →
    s.spi.state = .waitingForArgBytes → s.spi.wf = true →
    step s = .next { s with
      pending := rest
      spi := {
        state := if s.spi.argCount.val < 3 then .waitingForArgBytes else .waitingForCRC
        cmdNum := s.spi.cmdNum
        arg := (s.spi.arg <<< 8) ||| x.setWidth 32
        argCount := s.spi.argCount + 1
        queue := s.spi.queue }
      ret := .byte 0x00
      returned := s.returned ++ [.byte 0x00] })

/-- The CRC byte (42_spi_framing.md R185): whatever its value, the latched command is dispatched and, its response not
empty, the first byte is returned and the rest queued, over whatever the command did to the frame. -/
def Obligations.CrcByteStartsResponse : Prop :=
  ∀ (x : Byte) (s t : State) (rest : List PortCall) (r : BitStream) (q : Byte) (qs : List Byte),
    s.pending = .transmit x :: rest → s.disposed = false → s.params.spiMode = true → s.spi.state = .waitingForCRC →
    dispatch (s.spi.cmdNum.setWidth 32) s.spi.arg { s with pending := rest } = .next t →
    t.ret = .stream r → bytes r = q :: qs →
    step s = .next { t with
      spi := { t.spi with queue := qs, state := .sendingResponse }
      ret := .byte q
      returned := t.returned ++ [.byte q] }

/-- Sending a response (42_spi_framing.md R187, 70_reset_and_hazards.md R336): with k bytes queued, the next k exchanges
return them in order and one more returns 0x00 and brings the framer back, whatever bytes are sent meanwhile; nothing
else changes. And one exchange by itself, whatever calls came since the last: the first queued byte is returned and
the framer goes on sending, or, with none queued, 0x00 and back. That the sent bytes are discarded is the spec's
decision D8. -/
def Obligations.ResponseDrains : Prop :=
  (∀ (xs : List Byte) (s : State) (rest : List PortCall),
    s.pending = xs.map .transmit ++ rest → s.disposed = false → s.params.spiMode = true →
    s.spi.state = .sendingResponse → xs.length = s.spi.queue.length + 1 →
    steps xs.length s = .next { s with
      pending := rest
      spi := { s.spi with state := .waitingForCommand, queue := [] }
      ret := .byte 0x00
      returned := s.returned ++ s.spi.queue.map .byte ++ [.byte 0x00] }) ∧
  (∀ (x : Byte) (s : State) (rest : List PortCall),
    s.pending = .transmit x :: rest → s.disposed = false → s.params.spiMode = true → s.spi.state = .sendingResponse →
    (∀ b bs, s.spi.queue = b :: bs → step s = .next { s with
      pending := rest
      spi := { s.spi with queue := bs }
      ret := .byte b
      returned := s.returned ++ [.byte b] }) ∧
    (s.spi.queue = [] → step s = .next { s with
      pending := rest
      spi := { s.spi with state := .waitingForCommand }
      ret := .byte 0x00
      returned := s.returned ++ [.byte 0x00] }))

/-- `finishTransmission()` (42_spi_framing.md R188): the frame is reset from any state and in either mode; nothing else
changes. That the whole frame is reset is the spec's decision D27. -/
def Obligations.FinishTransmissionResetsFrame : Prop :=
  ∀ (s : State) (rest : List PortCall), s.pending = .finishTransmission :: rest → s.disposed = false →
    step s = .next { s with
      pending := rest
      spi := { state := .waitingForCommand, cmdNum := 0, arg := 0, argCount := 0, queue := [] }
      ret := .nothing
      returned := s.returned ++ [.nothing] }

/-- `transmit` with SPI disabled (42_spi_framing.md R180, 60_exceptions.md R303): any byte returns 0x00, records contract
fault F1 and logs an error; nothing else changes, and the block goes on. The outcome is the spec's decision D10. -/
def Obligations.NativeTransmitIsContractFault : Prop :=
  ∀ (x : Byte) (s : State) (rest : List PortCall),
    s.pending = .transmit x :: rest → s.disposed = false → s.params.spiMode = false →
    step s = .next { s with
      pending := rest
      fault := { s.fault with spiDisabled := true }
      log := s.log ++ [⟨.error, .contract .spiDisabled⟩]
      ret := .byte 0x00
      returned := s.returned ++ [.byte 0x00] }

/-! ### Dispatch -/

/-- `dispatch(n, a)` (43_standard_commands.md R200): the flag is consumed before the handler, always; with the flag set
the application table is tried first, and a number it does not hold is noted and falls through to the standard
table; a number in neither is unrecognized. -/
def Obligations.DispatchConsumesAppFlag : Prop :=
  ∀ (n a : Word) (s : State),
    (∀ p ∈ applicationTable, p.1 = n → s.card.appCmd = true → dispatch n a s = exec (p.2 a) (s.afterConsume n)) ∧
    (∀ p ∈ standardTable, p.1 = n → (s.card.appCmd = true → n ∉ applicationTable.map (·.1)) →
      dispatch n a s = exec (p.2 a) (s.afterConsume n)) ∧
    (n ∉ standardTable.map (·.1) → (s.card.appCmd = true → n ∉ applicationTable.map (·.1)) →
      dispatch n a s = .next (unrecognized (s.afterConsume n)))

/-- An unrecognized command (43_standard_commands.md R217): a number in no table that applies, 64 and above included,
logs a warning and answers an illegal-command R1 in SPI mode and EMPTY in native mode; but for the consumed flag
nothing is written. -/
def Obligations.UnrecognizedCommandAnswer : Prop :=
  ∀ (n a : Word) (s : State), n ∉ standardTable.map (·.1) →
    (s.card.appCmd = true → n ∉ applicationTable.map (·.1)) →
    dispatch n a s = .next { s with
      card := { s.card with appCmd := false }
      log := s.log ++ (if s.card.appCmd then [⟨.debug, .notAppCommand⟩] else []) ++ [⟨.warning, .unknownCommand⟩]
      ret := .stream (if s.params.spiMode then ofBytes [r1 true s] else []) }

/-- The one-shot flag (43_standard_commands.md R220): after a step that dispatches a number the flag is set exactly when
the number is CMD55's; a container reset clears it; every other step (filler, malformed tokens, argument bytes, drain
bytes, finishTransmission, data ports, accessors) leaves it. Which calls consume it is the spec's decision D30. -/
def Obligations.AppFlagIsOneShot : Prop :=
  ∀ s t : State, step s = .next t →
    (∀ n a, s.dispatched = some (n, a) → t.card.appCmd = decide (n = 55)) ∧
    (s.resetting = true → t.card.appCmd = false) ∧
    (s.dispatched = none → s.resetting = false → t.card.appCmd = s.card.appCmd)

/-- The idle flag (10_state.md R21): true at construction; a step makes it false only by dispatching ACMD41 and true only
by go-idle or `reset`; no other step writes it; and every R1 response reads it. -/
def Obligations.OnlyAcmd41EndsIdle : Prop :=
  (∀ (p : Params) (init : List Host.Cell) (s : State), construct p init = .next s → s.card.isIdle = true) ∧
  (∀ s t : State, step s = .next t →
    t.card.isIdle =
      if s.resetting = true ∨ s.dispatched.map (·.1) = some 0 then true
      else if s.card.appCmd = true ∧ s.dispatched.map (·.1) = some 41 then false
      else s.card.isIdle) ∧
  (∀ (ill : Bool) (s t : State), r1 ill s = r1 ill t ↔ s.card.isIdle = t.card.isIdle)

/-! ### Frames of the whole machine -/

/-- What an instruction leaves unchanged (43_standard_commands.md R203 to R216 and, where SPI mode rejects the command,
R218; 44_app_commands.md R251 to R255; FILL and TOKEN: 42_spi_framing.md R181, R183): none writes a parameter, the card
address, the geometry, the store or its length, the fault record, or the model's own bookkeeping but its result; every
byte of the store reads as before; the log only grows; and each other field changes only under the instructions named. -/
def Obligations.CommandFrame : Prop :=
  ∀ (i : Instr) (s t : State), exec i s = .next t →
    (t.params = s.params ∧ t.card.rca = s.card.rca ∧ t.geom = s.geom ∧ t.storeLen = s.storeLen ∧
      (∀ a, t.store.readByte a = s.store.readByte a) ∧ t.store = s.store ∧ t.fault = s.fault ∧
      t.disposed = s.disposed ∧ t.pending = s.pending ∧ t.returned = s.returned ∧ t.draws = s.draws) ∧
    (∃ new, t.log = s.log ++ new) ∧
    ((∀ a, i ≠ .cmd16 a) → t.card.blockLen = s.card.blockLen) ∧
    ((∀ a, i ≠ .cmd0 a ∧ i ≠ .acmd41 a) → t.card.isIdle = s.card.isIdle) ∧
    ((∀ a, i ≠ .cmd0 a ∧ i ≠ .cmd55 a) → t.card.appCmd = s.card.appCmd) ∧
    ((∀ a, i ≠ .cmd0 a ∧ i ≠ .cmd12 a ∧ i ≠ .cmd17 a ∧ i ≠ .cmd18 a ∧ i ≠ .acmd13 a ∧ i ≠ .acmd51 a) → t.rd = s.rd) ∧
    ((∀ a, i ≠ .cmd0 a ∧ i ≠ .cmd12 a ∧ i ≠ .cmd24 a) → t.wr = s.wr) ∧
    ((∀ a, i ≠ .cmd0 a) → (∀ n, i ≠ .token n) → t.spi = s.spi)

/-- The geometry and the store length are fixed at construction by the deriver, where the geometry encodes the length,
and no step changes either (10_state.md R35). -/
def Obligations.GeometryEncodesStoreLength : Prop :=
  (∀ (p : Params) (init : List Host.Cell) (s : State), construct p init = .next s →
    s.geom.length = s.storeLen ∧
    ∃ t, deriveCapacity p.requestedCapacity p.blMin.val p.blMax.val = some t ∧
      s.geom.m.toNat = t.m ∧ s.geom.d.toNat = t.d ∧ s.geom.b.toNat = t.b ∧ s.storeLen = t.length) ∧
  (∀ s t : State, step s = .next t → t.geom = s.geom ∧ t.storeLen = s.storeLen)

/-- No step writes a construction parameter or the card address (00_scope.md R9; 10_state.md R23, the spec's decision
D16), so the five constant registers (CID, CSD, SCR, SD status, OCR) read the same after it, and the card status does
where the app flag is as it was (40_register_composer.md R136). -/
def Obligations.ParametersNeverChange : Prop :=
  ∀ s t : State, step s = .next t →
    t.params = s.params ∧ t.card.rca = s.card.rca ∧
    cid t = cid s ∧ csd t = csd s ∧ scr t = scr s ∧ sdStatus t = sdStatus s ∧ ocr t = ocr s ∧
    (t.card.appCmd = s.card.appCmd → cardStatus t = cardStatus s)

/-- The fault record is sticky and the log only grows (10_state.md R40, R41): no step removes a recorded kind or an
event, a reset included. That reset keeps the record is the spec's decision D41. -/
def Obligations.FaultRecordIsSticky : Prop :=
  ∀ s t : State, step s = .next t →
    (∀ k : FaultKind, s.fault.has k = true → t.fault.has k = true) ∧ ∃ new, t.log = s.log ++ new

/-- Contract fault F3 is unreachable from the ports (41_io_context.md R165, 60_exceptions.md R303): no step records it,
from any state. That `advance` faults at all is the spec's decision D29. -/
def Obligations.NoStepRecordsAdvanceUnderflow : Prop :=
  ∀ s t : State, step s = .next t → t.fault.advanceUnderflow = s.fault.advanceUnderflow

/-- Only the write port changes the store (10_state.md R36): a step that changes any byte of it executes `writeData`, and
the byte is one of the store, below 2^32 (20_memory.md R51; against R53's formula the model's choice, log 24). -/
def Obligations.OnlyWriteDataChangesStore : Prop :=
  ∀ (s t : State) (a : Nat), step s = .next t → t.store.readByte a ≠ s.store.readByte a →
    (∃ v rest, s.pending = .writeData v :: rest) ∧ a < s.storeLen ∧ a < 2 ^ 32

/-- In SPI mode every dispatch answers at least one byte (42_spi_framing.md R186, R191), so no step ever draws the free
value ZL_BYTE. -/
def Obligations.SpiDispatchNeverEmpty : Prop :=
  (∀ (n a : Word) (s t : State), s.params.spiMode = true → dispatch n a s = .next t →
    ∃ r, t.ret = .stream r ∧ bytes r ≠ []) ∧
  (∀ s t : State, step s = .next t → t.draws = s.draws)

/-! ### Data path -/

/-- `readData(N)`, the guard (45_data_transfer.md R270): with no active read context, or more asked than is left, nothing
is returned, not even the bytes that are left, a warning is logged, and no state changes. -/
def Obligations.ReadDataRejected : Prop :=
  ∀ (n : Word) (s : State), s.rd.bytesLeft = 0 ∨ s.rd.bytesLeft < n.toNat →
    readData n s = { s with log := s.log ++ [⟨.warning, .readRejected⟩], ret := .bytes [] }

/-- `readData(N)` on an override-bound context after the guard (45_data_transfer.md R271): N bytes are sliced from the
register's stream, never fewer, the bit cursor moves by 8N, and the saved counter stays. -/
def Obligations.ReadDataFromRegister : Prop :=
  ∀ (n : Word) (s : State) (d : BitStream) (p k : Word), s.rd = .override d p k → s.rd.wf = true →
    0 < s.rd.bytesLeft → n.toNat ≤ s.rd.bytesLeft →
    (((bytes d).drop (p.toNat / 8)).take n.toNat).length = n.toNat ∧
    (p + 8 * n).toNat = p.toNat + 8 * n.toNat ∧
    readData n s = { s with
      rd := .override d (p + 8 * n) k
      ret := .bytes (((bytes d).drop (p.toNat / 8)).take n.toNat) }

/-- `readData(N)` on a store-bound context after the guard (45_data_transfer.md R272): the bytes at the offset that lie
in the store, a warning if that is fewer than N, and the cursor and counter moved by the full N. That a read is cut at
2^32 in a larger store is the model's choice (log 24). -/
def Obligations.ReadDataFromStore : Prop :=
  ∀ (n : Word) (s : State) (o k : Word), s.rd = .store o k → 0 < k.toNat → n.toNat ≤ k.toNat →
    let m := min n.toNat (min s.storeLen (2 ^ 32) - o.toNat)
    readData n s = { s with
      rd := .store (o + n) (k - n)
      log := if m < n.toNat then s.log ++ [⟨.warning, .shortRead⟩] else s.log
      ret := .bytes ((List.range m).map fun j => s.store.readByte (o.toNat + j)) }

/-- `writeData(v)` (45_data_transfer.md R274). Rejected, nothing is stored, not a prefix. Accepted, exactly the bytes at
the offset that lie in the store are stored in order, every other address reads as before, a short write is warned
of, the cursor and counter move by the full length, and nothing else changes. That a write is cut at 2^32 in a larger
store is the model's choice (log 24). -/
def Obligations.WriteDataStores : Prop :=
  ∀ (v : List Byte) (s : State) (o k : Word), s.wr = .store o k → s.store.wf = true →
    (k.toNat = 0 ∨ k.toNat < v.length →
      writeData v s = { s with log := s.log ++ [⟨.warning, .writeRejected⟩], ret := .nothing }) ∧
    (0 < k.toNat → v.length ≤ k.toNat →
      let m := min v.length (min s.storeLen (2 ^ 32) - o.toNat)
      ∃ t, writeData v s = t ∧
        t = { s with
          wr := .store (o + BitVec.ofNat 32 v.length) (k - BitVec.ofNat 32 v.length)
          log := if m < v.length then s.log ++ [⟨.warning, .shortWrite⟩] else s.log
          store := t.store
          ret := .nothing } ∧
        (∀ j, j < m → t.store.readByte (o.toNat + j) = v.getD j 0) ∧
        (∀ a, a < o.toNat ∨ o.toNat + m ≤ a → t.store.readByte a = s.store.readByte a))

/-- A block written is the block read back (20_memory.md R52, R54, R56): bytes that fit below STORE_LEN, and below 2^32
where no command reaches (R51, log 24), are read back whole and in order, whatever stood there before. -/
def Obligations.WriteThenReadBack : Prop :=
  ∀ (addr : Nat) (v : List Byte) (s : State), s.store.wf = true → addr + v.length ≤ min s.storeLen (2 ^ 32) →
    memRead addr v.length (memWrite addr v s) = v

/-- `setReadLimit(k)` (45_data_transfer.md R277): on a store-bound `rd` the counter takes the value, unclamped (the spec's
decision D34); on an override-bound one contract fault F2 is recorded and nothing else changes (D28). -/
def Obligations.SetReadLimitEffect : Prop :=
  ∀ (k : Word) (s : State),
    (∀ o c, s.rd = .store o c → setReadLimit k s = { s with rd := .store o k, ret := .nothing }) ∧
    (∀ d p c, s.rd = .override d p c → setReadLimit k s = { s with
      fault := { s.fault with setBytesLeftWhileBound := true }
      log := s.log ++ [⟨.error, .contract .setBytesLeftWhileBound⟩]
      ret := .nothing })

/-- The register accessors (45_data_transfer.md R278): the whole register's stream, no state change, no event, no
fault. -/
def Obligations.RegisterAccessorsReadOnly : Prop :=
  ∀ s : State,
    readRegister .cardStatus s = .next { s with ret := .stream (bits (cardStatus s)) } ∧
    readRegister .ocr s = .next { s with ret := .stream (bits (ocr s)) } ∧
    readRegister .csd s = .next { s with ret := .stream (bits (csd s)) } ∧
    readRegister .cid s = .next { s with ret := .stream (bits (cid s)) } ∧
    readRegister .scr s = .next { s with ret := .stream (bits (scr s)) } ∧
    readRegister .sdStatus s = .next { s with ret := .stream (bits (sdStatus s)) }

/-! ### Registers and the composer -/

/-- The values of the computed registers (40_register_composer.md R130 to R135) and of R1 (30_encoding.md R94). The
layouts are the spec's decisions D5 and D18 to D22. -/
def Obligations.RegisterValues : Prop :=
  ∀ s : State,
    cardStatus s = (if s.card.appCmd then 0x00000120 else 0x00000100) ∧
    ocr s = 0x80FF8000 ∧
    cid s = s.params.cid ∧
    csd s = s.params.csdBase ||| (s.geom.m.setWidth 128 <<< 47) ||| (s.geom.d.setWidth 128 <<< 62) |||
      (s.geom.b.setWidth 128 <<< 80) ∧
    scr s = s.params.scr ∧
    sdStatus s = s.params.sdStatus ∧
    (∀ ill, r1 ill s = (if ill then 0x04 else 0x00) ||| (if s.card.isIdle then 0x01 else 0x00))

/-- Composition (40_register_composer.md R122): reading a well-formed register gives the stream of its value, in which bit
i is set exactly when some fragment covers it whose source has the bit at i less the fragment's offset; bits no
fragment covers are 0. A register that is not well-formed is refused (R121). Streams are in wire order (00_scope.md
R12, 20_memory.md R57): element i of a W-bit value's stream is its bit W-1-i, byte j of the stream of a value of n bytes
is the value's j-th byte from the top, and a response's bytes are those it was built from. That order is the spec's
decision D4. -/
def Obligations.ComposerPlacesFragments : Prop :=
  (∀ (r : Reg) (c : Card),
    r.read c = (if ∀ f ∈ r.frags, 1 ≤ f.w ∧ f.off + f.w ≤ r.width then some (bits (r.value c)) else none) ∧
    ∀ i, i < r.width → (r.value c).getLsbD i =
      r.frags.any fun f => decide (f.off ≤ i) && decide (i < f.off + f.w) && (f.src.eval c).testBit (i - f.off)) ∧
  (∀ (w : Nat) (v : BitVec w), (bits v).length = w ∧ ∀ i, i < w → (bits v)[i]? = some (v.getLsbD (w - 1 - i))) ∧
  (∀ (n : Nat) (v : BitVec (8 * n)), (bytes (bits v)).length = n ∧
    ∀ j, j < n → (bytes (bits v))[j]? = some (v.extractLsb' (8 * (n - 1 - j)) 8)) ∧
  (∀ v : List Byte, bytes (ofBytes v) = v)

/-! ### I/O contexts -/

/-- `setOffset`, `bytesLeft`, `isActive`, `canAccept` and `resetCtx` (41_io_context.md R160, R162, R163, R164, R167). -/
def Obligations.ContextOperations : Prop :=
  ∀ c : IoCtx,
    (∀ o, (c.setOffset o).offset = o ∧ (c.setOffset o).boundTo = none ∧ (c.setOffset o).counter = c.counter) ∧
    (c.boundTo = none → c.bytesLeft = c.counter.toNat) ∧
    (∀ d, c.boundTo = some d → c.bytesLeft = (d.length - c.offset.toNat) / 8) ∧
    (c.isActive = true ↔ c.bytesLeft > 0) ∧
    (∀ n, c.canAccept n = true ↔ c.bytesLeft ≥ n) ∧
    c.resetCtx = .store 0 0

/-- `advance`, `bindOverrideData` and `setBytesLeft` (41_io_context.md R161, R165, R166): within the remaining bytes the
cursor moves by n bytes (8n bits when bound) and n bytes fewer are left; past them, and for a count set while bound,
a contract fault and no new context. The choices are the spec's decisions D14, D28, D29 and D35. -/
def Obligations.AdvanceMovesCursor : Prop :=
  ∀ c : IoCtx, c.wf = true →
    (∀ n, n ≤ c.bytesLeft → ∃ c', c.advance n = .ok c' ∧ c'.bytesLeft = c.bytesLeft - n ∧ c'.boundTo = c.boundTo ∧
      c'.offset.toNat = (c.offset.toNat + if c.isStore then n else 8 * n) % 2 ^ 32 ∧ c'.wf = true) ∧
    (∀ n, c.bytesLeft < n → c.advance n = .error .advanceUnderflow) ∧
    (∀ d, (c.bindOverrideData d).offset = 0 ∧ (c.bindOverrideData d).boundTo = some d ∧
      (c.bindOverrideData d).counter = c.counter) ∧
    (∀ k, c.setBytesLeft k = if c.isStore then .ok (.store c.offset k) else .error .setBytesLeftWhileBound)

/-! ### Capacity and construction -/

/-- The deriver (40_register_composer.md R144): a derived length is a legal one, at least the request, and the least such;
and a request above the maximum fails, never clamps. -/
def Obligations.CapacityIsMinimal : Prop :=
  ∀ r blMin blMax : Nat, blMin ≤ blMax →
    (∀ t, deriveCapacity r blMin blMax = some t →
      (t.m < 8 ∧ t.d < 4096 ∧ blMin ≤ t.b ∧ t.b ≤ blMax) ∧ r ≤ t.length ∧
      ∀ u : Triple, u.m < 8 → u.d < 4096 → blMin ≤ u.b → u.b ≤ blMax → r ≤ u.length → t.length ≤ u.length) ∧
    (deriveCapacity r blMin blMax = none ↔
      (Triple.mk 7 4095 blMax).length < r)

/-- The triple taken among those of equal length (40_register_composer.md R140): none of the same length comes earlier, by
block-length code and then by multiplier. The order is the spec's decision D23. -/
def Obligations.CapacityTieBreak : Prop :=
  ∀ (r blMin blMax : Nat) (t : Triple), deriveCapacity r blMin blMax = some t →
    ∀ u : Triple, u.m < 8 → u.d < 4096 → blMin ≤ u.b → u.b ≤ blMax → u.length = t.length →
      t.b < u.b ∨ (t.b = u.b ∧ t.m ≤ u.m)

/-- Construction (60_exceptions.md R302): with well-formed parameters it ends in the configuration error exactly when the
request is above the largest encodable length 2^(21 + BL_MAX), or when BL_MIN is above BL_MAX, so that no code is legal;
no card exists then. Otherwise a card does. Parameters outside their types (00_scope.md R9) are refused. What happens
with no legal code, and the refusal, are the model's reading (log 17). -/
def Obligations.ConstructionFailsAboveMaximum : Prop :=
  ∀ (p : Params) (init : List Host.Cell),
    (p.wf = false → construct p init = .refused .illFormedParameters) ∧
    (p.wf = true → p.blMax < p.blMin → construct p init = .fault .capacityUnencodable) ∧
    (p.wf = true → p.blMin ≤ p.blMax →
      (2 ^ (21 + p.blMax.val) < p.requestedCapacity → construct p init = .fault .capacityUnencodable) ∧
      (p.requestedCapacity ≤ 2 ^ (21 + p.blMax.val) → ∃ s, construct p init = .next s))

/-- A constructed card (70_reset_and_hazards.md R333, 10_state.md R43): the value of every field, the geometry and the store
length being the deriver's (40_register_composer.md R140); every byte of the store is what the last cell given for it
says, or what an unlisted byte reads as; and the card satisfies the invariant. The choices are the spec's decisions
D15, D16, D23, D25 and D31. The model's own choices are the store's form (log 7), and that the fields the spec does not name
start so: `disposed` false (log 16), no call pending (log 1), nothing returned (log 3), no free value drawn (log 8). -/
def Obligations.FreshCardState : Prop :=
  ∀ (p : Params) (init : List Host.Cell) (s : State), construct p init = .next s →
    (∃ t, deriveCapacity p.requestedCapacity p.blMin.val p.blMax.val = some t ∧
      s.geom.m.toNat = t.m ∧ s.geom.d.toNat = t.d ∧ s.geom.b.toNat = t.b ∧ p.requestedCapacity ≤ t.length ∧
      s = {
        params := p
        card := { isIdle := true, appCmd := false, rca := p.cardAddress, blockLen := p.blockLenInit }
        rd := .store 0 0, wr := .store 0 0
        spi := { state := .waitingForCommand, cmdNum := 0, arg := 0, argCount := 0, queue := [] }
        geom := s.geom, storeLen := t.length, store := s.store
        fault := FaultSet.empty, log := [], disposed := false, pending := [], ret := .nothing, returned := []
        draws := 0 }) ∧
    (∀ a, a < s.storeLen → s.store.readByte a =
      match init.reverse.find? fun c => c.1 == a with
      | some c => c.2
      | none => Memory.unlisted) ∧
    s.Inv

/-! ### Reset and the invariant -/

/-- `reset()` (70_reset_and_hazards.md R330, R331): from any state, a half-received command, a queued response and a bound
register included, idle, both contexts empty, the frame initial, the app flag clear; nothing else changes. The list is
the spec's decision D25. -/
def Obligations.ResetPortClearsProtocolState : Prop :=
  ∀ (s : State) (rest : List PortCall), s.pending = .reset :: rest → s.disposed = false →
    step s = .next { s with
      pending := rest
      rd := .store 0 0, wr := .store 0 0
      card := { s.card with isIdle := true, appCmd := false }
      spi := { state := .waitingForCommand, cmdNum := 0, arg := 0, argCount := 0, queue := [] }
      ret := .nothing
      returned := s.returned ++ [.nothing] }

/-- THE INVARIANT HOLDS AT RESET (10_state.md R23, R29, R34, R35; 41_io_context.md R168). -/
def Obligations.InvariantHoldsAtReset : Prop := State.reset.Inv

/-- EVERY STEP KEEPS THE INVARIANT (10_state.md R23, R29, R34, R35; 41_io_context.md R168): the store stays canonical and
inside its length, the write context store-bound, a bound cursor byte-aligned inside its register, the queue empty
outside SendingResponse, the argument count legal, and the geometry the store's. -/
def Obligations.StepKeepsInvariant : Prop :=
  ∀ s t : State, s.Inv → step s = .next t → t.Inv
end

