-- ==== Sys2Proof/Laws/Capacity.lean ====
section
/-! SUPPORT. What the capacity deriver's search does (40_register_composer.md R140, R141). -/

namespace Sys2Proof.Machine

theorem Triple.length_eq (m d b : Nat) : (Triple.mk m d b).length = (d + 1) * 2 ^ (m + 2 + b) := by
  simp only [Triple.length]
  rw [mul_assoc, ← pow_add]

/-- The triple for a multiplier and a code has the least device size that meets the request. -/
theorem smallestTriple_some {r m b : Nat} {t : Triple} (h : smallestTriple r m b = some t) :
    t.m = m ∧ t.b = b ∧ t.d < 4096 ∧ r ≤ t.length ∧ ∀ d, r ≤ (Triple.mk m d b).length → t.d ≤ d := by
  simp only [smallestTriple] at h
  split at h
  · rename_i hc
    cases h
    have hu : 0 < 2 ^ (m + 2 + b) := by positivity
    simp only [Triple.length_eq]
    generalize 2 ^ (m + 2 + b) = u at *
    refine ⟨trivial, trivial, by omega, ?_, fun d hd => ?_⟩
    · have h1 : r ≤ ((r + u - 1) / u) * u := by
        have := Nat.div_add_mod (r + u - 1) u
        have := Nat.mod_lt (r + u - 1) hu
        have := Nat.mul_comm u ((r + u - 1) / u)
        omega
      exact h1.trans (Nat.mul_le_mul_right _ (by omega))
    · have : (r + u - 1) / u ≤ d + 1 := by
        rw [Nat.div_le_iff_le_mul_add_pred hu]
        have := Nat.mul_comm u (d + 1)
        omega
      omega
  · cases h

/-- Where there is none, no device size meets the request. -/
theorem smallestTriple_none {r m b : Nat} (h : smallestTriple r m b = none) (d : Nat) (hd : d < 4096) :
    (Triple.mk m d b).length < r := by
  simp only [smallestTriple] at h
  split at h
  · cases h
  · rename_i hc
    have hu : 0 < 2 ^ (m + 2 + b) := by positivity
    rw [Triple.length_eq]
    generalize 2 ^ (m + 2 + b) = u at *
    by_contra hh
    have : (r + u - 1) / u ≤ 4096 := by
      rw [Nat.div_le_iff_le_mul_add_pred hu]
      have : (d + 1) * u ≤ 4096 * u := Nat.mul_le_mul_right _ (by omega)
      have := Nat.mul_comm u 4096
      omega
    omega

/-- The candidates are the least triples of the search space. -/
theorem mem_candidates {r lo hi : Nat} {t : Triple} :
    t ∈ candidates r lo hi ↔ ∃ b m, lo ≤ b ∧ b ≤ hi ∧ m < 8 ∧ smallestTriple r m b = some t := by
  simp only [candidates, List.mem_flatMap, List.mem_range'_1, List.mem_filterMap, List.mem_range]
  constructor
  · rintro ⟨b, ⟨h1, h2⟩, m, hm, h⟩
    exact ⟨b, m, h1, by omega, hm, h⟩
  · rintro ⟨b, m, h1, h2, h3, h⟩
    exact ⟨b, ⟨h1, by omega⟩, m, h3, h⟩

/-- The chosen triple is a candidate. -/
theorem firstShortest_mem : ∀ (ts : List Triple) (t : Triple), firstShortest t ts ∈ t :: ts
  | [], t => by simp [firstShortest]
  | x :: xs, t => by
    simp only [firstShortest]
    by_cases hx : x.length < t.length
    · have := firstShortest_mem xs x
      simp only [hx, if_true, List.mem_cons] at this ⊢
      tauto
    · have := firstShortest_mem xs t
      simp only [hx, if_false, List.mem_cons] at this ⊢
      tauto

theorem deriveCapacity_eq_none {r lo hi : Nat} : deriveCapacity r lo hi = none ↔ candidates r lo hi = [] := by
  unfold deriveCapacity
  split <;> simp_all

end Sys2Proof.Machine
end

