-- ==== Sys2Proof/Laws/Memory.lean ====
section
/-! SUPPORT. The laws of the backing store: reading after writing, and that every operation keeps the canonical form. -/

namespace Sys2Proof.Machine

@[simp] theorem Memory.readByte_nil (a : Nat) : Memory.readByte [] a = Memory.unlisted := rfl

@[simp] theorem Memory.wf_nil : Memory.wf [] = true := rfl

@[simp] theorem Memory.below_nil (n : Nat) : Memory.below n [] = true := rfl

/-- The canonical form of a list with a first cell. -/
theorem Memory.wf_cons (c : Host.Cell) (m : Memory) :
    Memory.wf (c :: m) = true ↔ c.2 ≠ Memory.unlisted ∧ (∀ d ∈ m, c.1 < d.1) ∧ Memory.wf m = true := by
  obtain ⟨k, v⟩ := c
  simp [Memory.wf, and_assoc]

/-- An address below every cell reads as unlisted. -/
theorem Memory.readByte_of_lt : ∀ (m : Memory) (a : Nat), (∀ d ∈ m, a < d.1) → m.readByte a = Memory.unlisted
  | [], _, _ => rfl
  | (k, v) :: m, a, h => by
    have hk : a < k := h (k, v) (by simp)
    simp only [Memory.readByte, if_neg (Nat.ne_of_gt hk)]
    exact Memory.readByte_of_lt m a fun d hd => h d (by simp [hd])

/-- Reading through a cell put before a store whose addresses are all greater. -/
theorem Memory.readByte_consCell (a b : Nat) (x : Byte) (m : Memory) (h : ∀ d ∈ m, a < d.1) :
    (Memory.consCell a x m).readByte b = if a = b then x else m.readByte b := by
  unfold Memory.consCell
  split
  · split
    · subst_vars; rw [Memory.readByte_of_lt m _ h]
    · rfl
  · rfl

/-- Read after write: the written address gives the byte written, every other address what it gave. -/
theorem Memory.readByte_writeByte : ∀ (m : Memory) (a b : Nat) (x : Byte), m.wf = true →
    (m.writeByte a x).readByte b = if a = b then x else m.readByte b
  | [], a, b, x, _ => by
    simpa [Memory.writeByte] using Memory.readByte_consCell a b x [] (by simp)
  | (k, v) :: m, a, b, x, h => by
    obtain ⟨_, hlt, hwf⟩ := (Memory.wf_cons _ _).mp h
    simp only [Memory.writeByte]
    split
    · rename_i hak
      rw [Memory.readByte_consCell]
      intro d hd
      rcases List.mem_cons.mp hd with rfl | hd
      · exact hak
      · exact Nat.lt_trans hak (hlt d hd)
    · split
      · rename_i hak
        subst hak
        rw [Memory.readByte_consCell _ _ _ _ hlt]
        simp only [Memory.readByte]
        split <;> rfl
      · rename_i h1 h2
        simp only [Memory.readByte, Memory.readByte_writeByte m a b x hwf]
        by_cases hkb : k = b
        · subst hkb; simp [h2]
        · simp [hkb]

/-- Every cell after a write is the one written or was there before. -/
theorem Memory.mem_writeByte : ∀ (m : Memory) (a : Nat) (x : Byte) (d : Host.Cell),
    d ∈ m.writeByte a x → d = (a, x) ∨ d ∈ m
  | [], a, x, d, h => by
    simp only [Memory.writeByte, Memory.consCell] at h
    split at h
    · exact .inr h
    · exact .inl (by simpa using h)
  | (k, v) :: m, a, x, d, h => by
    simp only [Memory.writeByte, Memory.consCell] at h
    split at h
    · split at h
      · exact .inr h
      · rcases List.mem_cons.mp h with rfl | h
        · exact .inl rfl
        · exact .inr h
    · split at h
      · split at h
        · exact .inr (by simp [h])
        · rcases List.mem_cons.mp h with rfl | h
          · exact .inl rfl
          · exact .inr (by simp [h])
      · rcases List.mem_cons.mp h with rfl | h
        · exact .inr (by simp)
        · rcases Memory.mem_writeByte m a x d h with rfl | h
          · exact .inl rfl
          · exact .inr (by simp [h])

theorem Memory.wf_consCell (a : Nat) (x : Byte) (m : Memory) (h : ∀ d ∈ m, a < d.1) (hm : m.wf = true) :
    (Memory.consCell a x m).wf = true := by
  unfold Memory.consCell
  split
  · exact hm
  · exact (Memory.wf_cons _ _).mpr ⟨by assumption, h, hm⟩

/-- A write keeps the canonical form. -/
theorem Memory.wf_writeByte : ∀ (m : Memory) (a : Nat) (x : Byte), m.wf = true → (m.writeByte a x).wf = true
  | [], a, x, _ => Memory.wf_consCell a x [] (by simp) rfl
  | (k, v) :: m, a, x, h => by
    obtain ⟨hv, hlt, hwf⟩ := (Memory.wf_cons _ _).mp h
    simp only [Memory.writeByte]
    split
    · rename_i hak
      refine Memory.wf_consCell _ _ _ ?_ h
      intro d hd
      rcases List.mem_cons.mp hd with rfl | hd
      · exact hak
      · exact Nat.lt_trans hak (hlt d hd)
    · split
      · rename_i hak
        subst hak
        exact Memory.wf_consCell _ _ _ hlt hwf
      · refine (Memory.wf_cons _ _).mpr ⟨hv, ?_, Memory.wf_writeByte m a x hwf⟩
        intro d hd
        rcases Memory.mem_writeByte m a x d hd with rfl | hd
        · simp only; omega
        · exact hlt d hd

/-- A write below the store's length keeps every cell below it. -/
theorem Memory.below_writeByte (n : Nat) (m : Memory) (a : Nat) (x : Byte) (ha : a < n) (h : m.below n = true) :
    (m.writeByte a x).below n = true := by
  simp only [Memory.below, List.all_eq_true, decide_eq_true_eq] at *
  intro d hd
  rcases Memory.mem_writeByte m a x d hd with rfl | hd
  · exact ha
  · exact h d hd

theorem Memory.wf_writeBytes : ∀ (v : List Byte) (m : Memory) (a : Nat), m.wf = true → (m.writeBytes a v).wf = true
  | [], _, _, h => h
  | x :: v, m, a, h => Memory.wf_writeBytes v _ (a + 1) (Memory.wf_writeByte m a x h)

theorem Memory.below_writeBytes (n : Nat) : ∀ (v : List Byte) (m : Memory) (a : Nat), a + v.length ≤ n →
    m.below n = true → (m.writeBytes a v).below n = true
  | [], _, _, _, h => h
  | x :: v, m, a, hl, h => by
    simp only [List.length_cons] at hl
    exact Memory.below_writeBytes n v _ (a + 1) (by omega) (Memory.below_writeByte n m a x (by omega) h)

/-- Bytes written at rising addresses are read back, and every address outside them reads as before. -/
theorem Memory.readByte_writeBytes : ∀ (v : List Byte) (m : Memory) (a b : Nat), m.wf = true →
    (m.writeBytes a v).readByte b = if a ≤ b ∧ b < a + v.length then v.getD (b - a) 0 else m.readByte b
  | [], m, a, b, _ => by
    have : ¬(a ≤ b ∧ b < a + ([] : List Byte).length) := by simp
    rw [if_neg this]; rfl
  | x :: v, m, a, b, h => by
    simp only [Memory.writeBytes]
    rw [Memory.readByte_writeBytes v _ (a + 1) b (Memory.wf_writeByte m a x h), Memory.readByte_writeByte m a b x h]
    simp only [List.length_cons]
    by_cases hab : a = b
    · subst hab
      simp
    · by_cases h1 : a + 1 ≤ b ∧ b < a + 1 + v.length
      · have h2 : a ≤ b ∧ b < a + (v.length + 1) := by omega
        rw [if_pos h1, if_pos h2]
        have : b - a = (b - (a + 1)) + 1 := by omega
        rw [this, List.getD_cons_succ]
      · have h2 : ¬(a ≤ b ∧ b < a + (v.length + 1)) := by omega
        rw [if_neg h1, if_neg h2, if_neg hab]

/-- The bytes a transfer moves lie in the store and below 2^32 (20_memory.md R51). -/
theorem clip_bounds {len addr n i : Nat} (h : i < clip len addr n) : addr + i < len ∧ addr + i < 2 ^ 32 := by
  simp only [clip, reach] at h
  omega

/-- A transfer that ends inside the store and at or below 2^32 is whole. -/
theorem clip_whole {len addr n : Nat} (h : addr + n ≤ reach len) : clip len addr n = n := by
  simp only [clip]
  omega

/-- A write leaves every other address as it was, whatever the list. -/
theorem Memory.readByte_writeByte_ne : ∀ (m : Memory) (a b : Nat) (x : Byte), a ≠ b →
    (m.writeByte a x).readByte b = m.readByte b
  | [], a, b, x, h => by
    simp only [Memory.writeByte, Memory.consCell]
    split
    · rfl
    · simp [Memory.readByte, h]
  | (k, v) :: m, a, b, x, h => by
    have ih := Memory.readByte_writeByte_ne m a b x h
    simp only [Memory.writeByte, Memory.consCell]
    split
    · split
      · rfl
      · simp [Memory.readByte, h]
    · split
      · rename_i hak
        subst hak
        split <;> simp [Memory.readByte, h]
      · simp only [Memory.readByte, ih]

/-- Bytes written leave every address outside them as it was, whatever the list. -/
theorem Memory.readByte_writeBytes_ne : ∀ (v : List Byte) (m : Memory) (a b : Nat), b < a ∨ a + v.length ≤ b →
    (m.writeBytes a v).readByte b = m.readByte b
  | [], _, _, _, _ => rfl
  | x :: v, m, a, b, h => by
    simp only [List.length_cons] at h
    simp only [Memory.writeBytes]
    rw [Memory.readByte_writeBytes_ne v _ (a + 1) b (by omega), Memory.readByte_writeByte_ne m a b x (by omega)]

/-- `MemWrite` keeps the canonical form. -/
theorem memWrite_store_wf (a : Nat) (v : List Byte) (s : State) (h : s.store.wf = true) :
    (memWrite a v s).store.wf = true := Memory.wf_writeBytes _ _ _ h

/-- `MemWrite` stays below STORE_LEN. -/
theorem memWrite_store_below (a : Nat) (v : List Byte) (s : State) (h : s.store.below s.storeLen = true) :
    (memWrite a v s).store.below s.storeLen = true := by
  by_cases ha : a ≤ s.storeLen
  · refine Memory.below_writeBytes _ _ _ _ ?_ h
    simp only [clip, reach, List.length_take]; omega
  · have hz : clip s.storeLen a v.length = 0 := by simp only [clip, reach]; omega
    simp only [memWrite, hz, List.take_zero]
    exact h

/-- What the whole store reads as after `MemWrite`. -/
theorem memWrite_readByte (a b : Nat) (v : List Byte) (s : State) (h : s.store.wf = true) :
    (memWrite a v s).store.readByte b =
      if a ≤ b ∧ b < a + clip s.storeLen a v.length then v.getD (b - a) 0 else s.store.readByte b := by
  have hl : (v.take (clip s.storeLen a v.length)).length = clip s.storeLen a v.length := by
    simp only [List.length_take, clip]; omega
  simp only [memWrite]
  rw [Memory.readByte_writeBytes _ _ _ _ h, hl]
  split
  · rw [List.getD_eq_getElem?_getD, List.getElem?_take_of_lt (by omega), ← List.getD_eq_getElem?_getD]
  · rfl

/-- `MemRead` delivers as many bytes as lie in the store. -/
@[simp] theorem memRead_length (a n : Nat) (s : State) : (memRead a n s).length = clip s.storeLen a n := by
  simp [memRead]

end Sys2Proof.Machine
end

