-- ==== Sys2Proof/Laws/Construct.lean ====
section
/-! SUPPORT. What construction does (70_reset_and_hazards.md R333). -/

namespace Sys2Proof.Machine

/-- A constructed card is the fresh card of the geometry derived for its parameters. -/
theorem construct_cases {p : Params} {init : List Host.Cell} {s : State} (h : construct p init = .next s) :
    p.wf = true ∧ ∃ t, deriveCapacity p.requestedCapacity p.blMin.val p.blMax.val = some t ∧ s = freshCard p init t := by
  unfold construct at h
  split at h
  · rename_i hw
    split at h
    · exact ⟨hw, _, by assumption, by simpa using h.symm⟩
    · cases h
  · cases h

/-- Cells written one after the other keep the canonical form. -/
theorem foldl_writeByte_wf : ∀ (cs : List Host.Cell) (m : Memory), m.wf = true →
    Memory.wf (cs.foldl (fun m c => Memory.writeByte m c.1 c.2) m) = true
  | [], _, h => h
  | c :: cs, m, h => foldl_writeByte_wf cs _ (Memory.wf_writeByte m c.1 c.2 h)

/-- Cells inside the store leave it inside the store. -/
theorem foldl_writeByte_below (n : Nat) : ∀ (cs : List Host.Cell) (m : Memory), (∀ c ∈ cs, c.1 < n) →
    m.below n = true → Memory.below n (cs.foldl (fun m c => Memory.writeByte m c.1 c.2) m) = true
  | [], _, _, hm => hm
  | c :: cs, m, h, hm =>
    foldl_writeByte_below n cs _ (fun d hd => h d (by simp [hd])) (Memory.below_writeByte n m c.1 c.2 (h c (by simp)) hm)

theorem initialStore_wf (len : Nat) (cells : List Host.Cell) : (initialStore len cells).wf = true :=
  foldl_writeByte_wf _ [] rfl

theorem initialStore_below (len : Nat) (cells : List Host.Cell) : (initialStore len cells).below len = true := by
  apply foldl_writeByte_below len _ [] _ rfl
  intro c hc
  simp at hc
  exact hc.2

end Sys2Proof.Machine
end

