-- ==== Sys2Proof/Laws/Streams.lean ====
section
/-! SUPPORT. Streams and their bytes (00_scope.md R12, 30_encoding.md R100). -/

namespace Sys2Proof.Machine

@[simp] theorem bits_length {w : Nat} (v : BitVec w) : (bits v).length = w := by simp [bits]

@[simp] theorem ofBytes_nil : ofBytes [] = [] := rfl

theorem ofBytes_cons (x : Byte) (v : List Byte) : ofBytes (x :: v) = bits x ++ ofBytes v := rfl

theorem byteOfBits_getMsbD : ∀ x : Byte,
    byteOfBits (x.getMsbD 0) (x.getMsbD 1) (x.getMsbD 2) (x.getMsbD 3) (x.getMsbD 4) (x.getMsbD 5) (x.getMsbD 6)
      (x.getMsbD 7) = x := by decide +revert

/-- The first eight bits of a stream are its first byte. -/
theorem bytes_bits_append (x : Byte) (rest : BitStream) : bytes (bits x ++ rest) = x :: bytes rest := by
  have h : bits x = [x.getMsbD 0, x.getMsbD 1, x.getMsbD 2, x.getMsbD 3, x.getMsbD 4, x.getMsbD 5, x.getMsbD 6,
      x.getMsbD 7] := rfl
  simp only [h, List.cons_append, List.nil_append, bytes, byteOfBits_getMsbD]

/-- A response's bytes are the bytes it was built from. -/
@[simp] theorem bytes_ofBytes (v : List Byte) : bytes (ofBytes v) = v := by
  induction v with
  | nil => rfl
  | cons x v ih => rw [ofBytes_cons, bytes_bits_append, ih]

/-- A stream of n bytes' bits has n bytes. -/
theorem bytes_length : ∀ (n : Nat) (s : BitStream), s.length = 8 * n → (bytes s).length = n
  | 0, s, h => by
    have : s = [] := List.eq_nil_of_length_eq_zero (by omega)
    subst this; rfl
  | n + 1, s, h => by
    match s, h with
    | b7 :: b6 :: b5 :: b4 :: b3 :: b2 :: b1 :: b0 :: rest, h =>
      simp only [bytes, List.length_cons]
      rw [bytes_length n rest (by simp at h; omega)]

end Sys2Proof.Machine
end

