-- ==== Sys2Proof/Laws/Context.lean ====
section
/-! SUPPORT. What each operation of an I/O context does (41_io_context.md R160 to R168). -/

namespace Sys2Proof.Machine

@[simp] theorem IoCtx.setOffset_isStore (c : IoCtx) (o : Word) : (c.setOffset o).isStore = true := rfl

@[simp] theorem IoCtx.setOffset_wf (c : IoCtx) (o : Word) : (c.setOffset o).wf = true := rfl

@[simp] theorem IoCtx.reset_isStore : IoCtx.reset.isStore = true := rfl

@[simp] theorem IoCtx.reset_wf : IoCtx.reset.wf = true := rfl

/-- Setting the count after the offset cannot fault (43_standard_commands.md R211, R213). -/
@[simp] theorem IoCtx.setOffset_setBytesLeft (c : IoCtx) (o k : Word) :
    (c.setOffset o).setBytesLeft k = .ok (.store o k) := rfl

/-- `advance` either faults, past the remaining bytes, or moves the context's own cursor. -/
theorem IoCtx.advance_ok (c : IoCtx) (n : Nat) (h : n ≤ c.bytesLeft) :
    c.advance n = .ok (match c with
      | .override d p k => .override d (p + BitVec.ofNat 32 (8 * n)) k
      | .store o k => .store (o + BitVec.ofNat 32 n) (k - BitVec.ofNat 32 n)) := by
  unfold IoCtx.advance
  rw [if_neg (by omega)]
  cases c <;> rfl

theorem IoCtx.advance_error (c : IoCtx) (n : Nat) (h : c.bytesLeft < n) :
    c.advance n = .error .advanceUnderflow := by
  unfold IoCtx.advance
  rw [if_pos h]

/-- A bound cursor that advances within the remaining bytes does not wrap. -/
theorem IoCtx.override_advance_toNat (d : BitStream) (p k : Word) (n : Nat)
    (hw : (IoCtx.override d p k).wf = true) (h : n ≤ (IoCtx.override d p k).bytesLeft) :
    (p + BitVec.ofNat 32 (8 * n)).toNat = p.toNat + 8 * n := by
  simp only [IoCtx.wf, Bool.and_eq_true, decide_eq_true_eq] at hw
  simp only [IoCtx.bytesLeft] at h
  rw [BitVec.toNat_add, BitVec.toNat_ofNat]
  have := p.isLt
  omega

/-- `advance` keeps a well-formed context well-formed (R168). -/
theorem IoCtx.advance_wf (c c' : IoCtx) (n : Nat) (hw : c.wf = true) (h : c.advance n = .ok c') : c'.wf = true := by
  by_cases hn : n ≤ c.bytesLeft
  · rw [IoCtx.advance_ok c n hn] at h
    cases h
    cases c with
    | store o k => rfl
    | override d p k =>
      have hp := IoCtx.override_advance_toNat d p k n hw hn
      simp only [IoCtx.wf, Bool.and_eq_true, decide_eq_true_eq] at hw ⊢
      simp only [IoCtx.bytesLeft] at hn
      rw [hp]
      omega
  · rw [IoCtx.advance_error c n (by omega)] at h
    cases h

/-- `advance` keeps the binding's kind. -/
theorem IoCtx.advance_isStore (c c' : IoCtx) (n : Nat) (h : c.advance n = .ok c') : c'.isStore = c.isStore := by
  by_cases hn : n ≤ c.bytesLeft
  · rw [IoCtx.advance_ok c n hn] at h
    cases h
    cases c <;> rfl
  · rw [IoCtx.advance_error c n (by omega)] at h
    cases h

/-- Arming the read context cannot fault and leaves it store-bound (R211). -/
@[simp] theorem armRead_eq (off k : Word) (s : State) : armRead off k s = { s with rd := .store off k } := rfl

/-- Arming the write context cannot fault (R213). -/
@[simp] theorem armWrite_eq (off k : Word) (s : State) : armWrite off k s = { s with wr := .store off k } := rfl

end Sys2Proof.Machine
end

