-- ==== Sys2Proof/Laws/PerInstr.lean ====
section
/-! SUPPORT. Statements made per instruction, about the instruction as syntax. -/

namespace Sys2Proof.Laws

/-- The shape of an instruction's bytes (30_encoding.md R81, R82, R84): with any CRC byte, the filler is the one byte
0xFF; every other instruction starts with its number's token byte, which reads back as that number and is no filler,
and is six bytes long, the CRC byte last, or, the row TOKEN, that byte alone. -/
def EncodeShape.Statement (i : Instr) : Prop :=
  ∀ crc : Byte,
    match i.number with
    | none => encodeWith crc i = [0xFF] ∧ decodeByte 0xFF = .ok i
    | some n => ∃ body, encodeWith crc i = tokenByte n :: body ∧ decodeByte (tokenByte n) = .ok (.token n) ∧
        ((body.length = 5 ∧ body.getLast? = some crc) ∨ (body = [] ∧ i = .token n))

/-- Every token byte reads back as its number: none is the filler, none is malformed. -/
theorem decodeByte_tokenByte : ∀ n : BitVec 6, decodeByte (tokenByte n) = .ok (.token n) := by decide

/-- An instruction encoded as a frame has the shape. -/
theorem encodeShape_of_frame {i : Instr} {n : BitVec 6} {a : Word} (hn : i.number = some n)
    (he : ∀ crc, encodeWith crc i = frame n a crc) : EncodeShape.Statement i := by
  intro crc
  simp only [hn, he]
  exact ⟨_, rfl, decodeByte_tokenByte n, .inl ⟨rfl, rfl⟩⟩

theorem EncodeShape.cmd0 (a : Word) : EncodeShape.Statement (.cmd0 a) := encodeShape_of_frame rfl fun _ => rfl
theorem EncodeShape.cmd2 (a : Word) : EncodeShape.Statement (.cmd2 a) := encodeShape_of_frame rfl fun _ => rfl
theorem EncodeShape.cmd3 (a : Word) : EncodeShape.Statement (.cmd3 a) := encodeShape_of_frame rfl fun _ => rfl
theorem EncodeShape.cmd7 (a : Word) : EncodeShape.Statement (.cmd7 a) := encodeShape_of_frame rfl fun _ => rfl
theorem EncodeShape.cmd8 (a : Word) : EncodeShape.Statement (.cmd8 a) := encodeShape_of_frame rfl fun _ => rfl
theorem EncodeShape.cmd9 (a : Word) : EncodeShape.Statement (.cmd9 a) := encodeShape_of_frame rfl fun _ => rfl
theorem EncodeShape.cmd12 (a : Word) : EncodeShape.Statement (.cmd12 a) := encodeShape_of_frame rfl fun _ => rfl
theorem EncodeShape.cmd13 (a : Word) : EncodeShape.Statement (.cmd13 a) := encodeShape_of_frame rfl fun _ => rfl
theorem EncodeShape.cmd16 (a : Word) : EncodeShape.Statement (.cmd16 a) := encodeShape_of_frame rfl fun _ => rfl
theorem EncodeShape.cmd17 (a : Word) : EncodeShape.Statement (.cmd17 a) := encodeShape_of_frame rfl fun _ => rfl
theorem EncodeShape.cmd18 (a : Word) : EncodeShape.Statement (.cmd18 a) := encodeShape_of_frame rfl fun _ => rfl
theorem EncodeShape.cmd24 (a : Word) : EncodeShape.Statement (.cmd24 a) := encodeShape_of_frame rfl fun _ => rfl
theorem EncodeShape.cmd55 (a : Word) : EncodeShape.Statement (.cmd55 a) := encodeShape_of_frame rfl fun _ => rfl
theorem EncodeShape.cmd58 (a : Word) : EncodeShape.Statement (.cmd58 a) := encodeShape_of_frame rfl fun _ => rfl
theorem EncodeShape.acmd13 (a : Word) : EncodeShape.Statement (.acmd13 a) := encodeShape_of_frame rfl fun _ => rfl
theorem EncodeShape.acmd41 (a : Word) : EncodeShape.Statement (.acmd41 a) := encodeShape_of_frame rfl fun _ => rfl
theorem EncodeShape.acmd51 (a : Word) : EncodeShape.Statement (.acmd51 a) := encodeShape_of_frame rfl fun _ => rfl

theorem EncodeShape.fill : EncodeShape.Statement .fill := fun _ => ⟨rfl, rfl⟩

theorem EncodeShape.token (n : BitVec 6) : EncodeShape.Statement (.token n) := fun _ =>
  ⟨[], rfl, decodeByte_tokenByte n, .inr ⟨rfl, rfl⟩⟩

end Sys2Proof.Laws
end

