-- ==== Sys2Proof/Laws/Decode.lean ====
section
/-! SUPPORT. What the decoder does with a whole frame and with numbers in neither table (30_encoding.md R84 to R90). -/

namespace Sys2Proof.Machine

open Sys2Proof.Laws

/-- The argument bytes of a frame assemble to the argument (R84). -/
theorem argOfBytes_extract (a : Word) :
    argOfBytes (a.extractLsb' 24 8) (a.extractLsb' 16 8) (a.extractLsb' 8 8) (a.extractLsb' 0 8) = a := by
  simp only [argOfBytes]
  apply BitVec.eq_of_getLsbD_eq
  intro i hi
  simp only [BitVec.getLsbD_or, BitVec.getLsbD_shiftLeft, BitVec.getLsbD_setWidth, BitVec.getLsbD_extractLsb']
  interval_cases i <;> simp

/-- A whole frame whose number stands for a command is that command, and the bytes after it are left. -/
theorem decode_frame {app : Bool} {n : BitVec 6} {a : Word} {i : Instr} (crc : Byte) (rest : List Byte)
    (h : decodeCommand app (n.setWidth 32) a = .ok i) : decode app (frame n a crc ++ rest) = .ok (i, rest) := by
  simp [frame, decode, decodeByte_tokenByte, argOfBytes_extract, h]

theorem decodeApp_error {n : Word} (a : Word) (h : n ∉ applicationTable.map (·.1)) :
    decodeApp n a = .error (.unrecognized n) := by
  simp [applicationTable] at h
  simp [decodeApp, h]

theorem decodeStd_error {n : Word} (a : Word) (h : n ∉ standardTable.map (·.1)) :
    decodeStd n a = .error (.unrecognized n) := by
  simp [standardTable] at h
  simp [decodeStd, h]

end Sys2Proof.Machine
end

