-- ==== Sys2Proof/Laws/Registers.lean ====
section
/-! SUPPORT. What the registers and the response shapes depend on (40_register_composer.md R136; 30_encoding.md R92). -/

namespace Sys2Proof.Machine

/-- The card status depends on the app flag alone. -/
theorem cardStatus_congr {s t : State} (h : t.card.appCmd = s.card.appCmd) : cardStatus t = cardStatus s := by
  simp only [cardStatus, cardStatusReg, Reg.value, List.foldl, Fragment.place, Source.eval, h]

/-- R1 depends on the idle flag alone. -/
theorem r1_congr {s t : State} (ill : Bool) (h : t.card.isIdle = s.card.isIdle) : r1 ill t = r1 ill s := by
  simp only [r1, h]

theorem ocr_const (s t : State) : ocr t = ocr s := rfl

theorem registerOf_wf (r : RegName) (s : State) : (registerOf r s).wf = true := by
  cases r <;> simp [registerOf, Reg.wf, cardStatusReg, ocrReg, csdReg, cidReg, scrReg, sdStatusReg]

/-- `spi?` changes nothing but the result (43_standard_commands.md). -/
theorem respondBy_eq (x : State → List Byte) (y : State → BitStream) (s : State) :
    respondBy x y s = { s with ret := .stream (if s.params.spiMode then ofBytes (x s) else y s) } := by
  unfold respondBy
  split <;> simp_all [respondFrame, respondStream, respond]

end Sys2Proof.Machine
end

