-- ==== Sys2Proof/Laws/State.lean ====
section
/-! SUPPORT. What each named update of the state does to each field, so that no proof unfolds a record update. -/

namespace Sys2Proof.Machine

/-! `respond` -/

@[simp] theorem respond_params (r : PortResult) (s : State) : (respond r s).params = s.params := rfl
@[simp] theorem respond_card (r : PortResult) (s : State) : (respond r s).card = s.card := rfl
@[simp] theorem respond_rd (r : PortResult) (s : State) : (respond r s).rd = s.rd := rfl
@[simp] theorem respond_wr (r : PortResult) (s : State) : (respond r s).wr = s.wr := rfl
@[simp] theorem respond_spi (r : PortResult) (s : State) : (respond r s).spi = s.spi := rfl
@[simp] theorem respond_geom (r : PortResult) (s : State) : (respond r s).geom = s.geom := rfl
@[simp] theorem respond_storeLen (r : PortResult) (s : State) : (respond r s).storeLen = s.storeLen := rfl
@[simp] theorem respond_store (r : PortResult) (s : State) : (respond r s).store = s.store := rfl
@[simp] theorem respond_fault (r : PortResult) (s : State) : (respond r s).fault = s.fault := rfl
@[simp] theorem respond_log (r : PortResult) (s : State) : (respond r s).log = s.log := rfl
@[simp] theorem respond_disposed (r : PortResult) (s : State) : (respond r s).disposed = s.disposed := rfl
@[simp] theorem respond_pending (r : PortResult) (s : State) : (respond r s).pending = s.pending := rfl
@[simp] theorem respond_ret (r : PortResult) (s : State) : (respond r s).ret = r := rfl
@[simp] theorem respond_returned (r : PortResult) (s : State) : (respond r s).returned = s.returned := rfl
@[simp] theorem respond_draws (r : PortResult) (s : State) : (respond r s).draws = s.draws := rfl

/-! `respondFrame` -/

@[simp] theorem respondFrame_params (f : List Byte) (s : State) : (respondFrame f s).params = s.params := rfl
@[simp] theorem respondFrame_card (f : List Byte) (s : State) : (respondFrame f s).card = s.card := rfl
@[simp] theorem respondFrame_rd (f : List Byte) (s : State) : (respondFrame f s).rd = s.rd := rfl
@[simp] theorem respondFrame_wr (f : List Byte) (s : State) : (respondFrame f s).wr = s.wr := rfl
@[simp] theorem respondFrame_spi (f : List Byte) (s : State) : (respondFrame f s).spi = s.spi := rfl
@[simp] theorem respondFrame_geom (f : List Byte) (s : State) : (respondFrame f s).geom = s.geom := rfl
@[simp] theorem respondFrame_storeLen (f : List Byte) (s : State) : (respondFrame f s).storeLen = s.storeLen := rfl
@[simp] theorem respondFrame_store (f : List Byte) (s : State) : (respondFrame f s).store = s.store := rfl
@[simp] theorem respondFrame_fault (f : List Byte) (s : State) : (respondFrame f s).fault = s.fault := rfl
@[simp] theorem respondFrame_log (f : List Byte) (s : State) : (respondFrame f s).log = s.log := rfl
@[simp] theorem respondFrame_disposed (f : List Byte) (s : State) : (respondFrame f s).disposed = s.disposed := rfl
@[simp] theorem respondFrame_pending (f : List Byte) (s : State) : (respondFrame f s).pending = s.pending := rfl
@[simp] theorem respondFrame_ret (f : List Byte) (s : State) : (respondFrame f s).ret = .stream (ofBytes f) := rfl
@[simp] theorem respondFrame_returned (f : List Byte) (s : State) : (respondFrame f s).returned = s.returned := rfl
@[simp] theorem respondFrame_draws (f : List Byte) (s : State) : (respondFrame f s).draws = s.draws := rfl

/-! `respondStream` -/

@[simp] theorem respondStream_params (b : BitStream) (s : State) : (respondStream b s).params = s.params := rfl
@[simp] theorem respondStream_card (b : BitStream) (s : State) : (respondStream b s).card = s.card := rfl
@[simp] theorem respondStream_rd (b : BitStream) (s : State) : (respondStream b s).rd = s.rd := rfl
@[simp] theorem respondStream_wr (b : BitStream) (s : State) : (respondStream b s).wr = s.wr := rfl
@[simp] theorem respondStream_spi (b : BitStream) (s : State) : (respondStream b s).spi = s.spi := rfl
@[simp] theorem respondStream_geom (b : BitStream) (s : State) : (respondStream b s).geom = s.geom := rfl
@[simp] theorem respondStream_storeLen (b : BitStream) (s : State) : (respondStream b s).storeLen = s.storeLen := rfl
@[simp] theorem respondStream_store (b : BitStream) (s : State) : (respondStream b s).store = s.store := rfl
@[simp] theorem respondStream_fault (b : BitStream) (s : State) : (respondStream b s).fault = s.fault := rfl
@[simp] theorem respondStream_log (b : BitStream) (s : State) : (respondStream b s).log = s.log := rfl
@[simp] theorem respondStream_disposed (b : BitStream) (s : State) : (respondStream b s).disposed = s.disposed := rfl
@[simp] theorem respondStream_pending (b : BitStream) (s : State) : (respondStream b s).pending = s.pending := rfl
@[simp] theorem respondStream_ret (b : BitStream) (s : State) : (respondStream b s).ret = .stream b := rfl
@[simp] theorem respondStream_returned (b : BitStream) (s : State) : (respondStream b s).returned = s.returned := rfl
@[simp] theorem respondStream_draws (b : BitStream) (s : State) : (respondStream b s).draws = s.draws := rfl

/-! `respondByte` -/

@[simp] theorem respondByte_params (x : Byte) (s : State) : (respondByte x s).params = s.params := rfl
@[simp] theorem respondByte_card (x : Byte) (s : State) : (respondByte x s).card = s.card := rfl
@[simp] theorem respondByte_rd (x : Byte) (s : State) : (respondByte x s).rd = s.rd := rfl
@[simp] theorem respondByte_wr (x : Byte) (s : State) : (respondByte x s).wr = s.wr := rfl
@[simp] theorem respondByte_spi (x : Byte) (s : State) : (respondByte x s).spi = s.spi := rfl
@[simp] theorem respondByte_geom (x : Byte) (s : State) : (respondByte x s).geom = s.geom := rfl
@[simp] theorem respondByte_storeLen (x : Byte) (s : State) : (respondByte x s).storeLen = s.storeLen := rfl
@[simp] theorem respondByte_store (x : Byte) (s : State) : (respondByte x s).store = s.store := rfl
@[simp] theorem respondByte_fault (x : Byte) (s : State) : (respondByte x s).fault = s.fault := rfl
@[simp] theorem respondByte_log (x : Byte) (s : State) : (respondByte x s).log = s.log := rfl
@[simp] theorem respondByte_disposed (x : Byte) (s : State) : (respondByte x s).disposed = s.disposed := rfl
@[simp] theorem respondByte_pending (x : Byte) (s : State) : (respondByte x s).pending = s.pending := rfl
@[simp] theorem respondByte_ret (x : Byte) (s : State) : (respondByte x s).ret = .byte x := rfl
@[simp] theorem respondByte_returned (x : Byte) (s : State) : (respondByte x s).returned = s.returned := rfl
@[simp] theorem respondByte_draws (x : Byte) (s : State) : (respondByte x s).draws = s.draws := rfl

/-! `logEvent` -/

@[simp] theorem logEvent_params (l : Level) (k : EventKind) (s : State) : (logEvent l k s).params = s.params := rfl
@[simp] theorem logEvent_card (l : Level) (k : EventKind) (s : State) : (logEvent l k s).card = s.card := rfl
@[simp] theorem logEvent_rd (l : Level) (k : EventKind) (s : State) : (logEvent l k s).rd = s.rd := rfl
@[simp] theorem logEvent_wr (l : Level) (k : EventKind) (s : State) : (logEvent l k s).wr = s.wr := rfl
@[simp] theorem logEvent_spi (l : Level) (k : EventKind) (s : State) : (logEvent l k s).spi = s.spi := rfl
@[simp] theorem logEvent_geom (l : Level) (k : EventKind) (s : State) : (logEvent l k s).geom = s.geom := rfl
@[simp] theorem logEvent_storeLen (l : Level) (k : EventKind) (s : State) :
    (logEvent l k s).storeLen = s.storeLen := rfl
@[simp] theorem logEvent_store (l : Level) (k : EventKind) (s : State) : (logEvent l k s).store = s.store := rfl
@[simp] theorem logEvent_fault (l : Level) (k : EventKind) (s : State) : (logEvent l k s).fault = s.fault := rfl
@[simp] theorem logEvent_log (l : Level) (k : EventKind) (s : State) : (logEvent l k s).log = s.log ++ [⟨l, k⟩] := rfl
@[simp] theorem logEvent_disposed (l : Level) (k : EventKind) (s : State) :
    (logEvent l k s).disposed = s.disposed := rfl
@[simp] theorem logEvent_pending (l : Level) (k : EventKind) (s : State) : (logEvent l k s).pending = s.pending := rfl
@[simp] theorem logEvent_ret (l : Level) (k : EventKind) (s : State) : (logEvent l k s).ret = s.ret := rfl
@[simp] theorem logEvent_returned (l : Level) (k : EventKind) (s : State) :
    (logEvent l k s).returned = s.returned := rfl
@[simp] theorem logEvent_draws (l : Level) (k : EventKind) (s : State) : (logEvent l k s).draws = s.draws := rfl

/-! `contractFault` -/

@[simp] theorem contractFault_params (k : FaultKind) (s : State) : (contractFault k s).params = s.params := rfl
@[simp] theorem contractFault_card (k : FaultKind) (s : State) : (contractFault k s).card = s.card := rfl
@[simp] theorem contractFault_rd (k : FaultKind) (s : State) : (contractFault k s).rd = s.rd := rfl
@[simp] theorem contractFault_wr (k : FaultKind) (s : State) : (contractFault k s).wr = s.wr := rfl
@[simp] theorem contractFault_spi (k : FaultKind) (s : State) : (contractFault k s).spi = s.spi := rfl
@[simp] theorem contractFault_geom (k : FaultKind) (s : State) : (contractFault k s).geom = s.geom := rfl
@[simp] theorem contractFault_storeLen (k : FaultKind) (s : State) : (contractFault k s).storeLen = s.storeLen := rfl
@[simp] theorem contractFault_store (k : FaultKind) (s : State) : (contractFault k s).store = s.store := rfl
@[simp] theorem contractFault_fault (k : FaultKind) (s : State) : (contractFault k s).fault = s.fault.add k := rfl
@[simp] theorem contractFault_log (k : FaultKind) (s : State) :
    (contractFault k s).log = s.log ++ [⟨.error, .contract k⟩] := rfl
@[simp] theorem contractFault_disposed (k : FaultKind) (s : State) : (contractFault k s).disposed = s.disposed := rfl
@[simp] theorem contractFault_pending (k : FaultKind) (s : State) : (contractFault k s).pending = s.pending := rfl
@[simp] theorem contractFault_ret (k : FaultKind) (s : State) : (contractFault k s).ret = .nothing := rfl
@[simp] theorem contractFault_returned (k : FaultKind) (s : State) : (contractFault k s).returned = s.returned := rfl
@[simp] theorem contractFault_draws (k : FaultKind) (s : State) : (contractFault k s).draws = s.draws := rfl

/-! `clearAppFlag` -/

@[simp] theorem clearAppFlag_params (s : State) : (clearAppFlag s).params = s.params := rfl
@[simp] theorem clearAppFlag_card (s : State) : (clearAppFlag s).card = { s.card with appCmd := false } := rfl
@[simp] theorem clearAppFlag_rd (s : State) : (clearAppFlag s).rd = s.rd := rfl
@[simp] theorem clearAppFlag_wr (s : State) : (clearAppFlag s).wr = s.wr := rfl
@[simp] theorem clearAppFlag_spi (s : State) : (clearAppFlag s).spi = s.spi := rfl
@[simp] theorem clearAppFlag_geom (s : State) : (clearAppFlag s).geom = s.geom := rfl
@[simp] theorem clearAppFlag_storeLen (s : State) : (clearAppFlag s).storeLen = s.storeLen := rfl
@[simp] theorem clearAppFlag_store (s : State) : (clearAppFlag s).store = s.store := rfl
@[simp] theorem clearAppFlag_fault (s : State) : (clearAppFlag s).fault = s.fault := rfl
@[simp] theorem clearAppFlag_log (s : State) : (clearAppFlag s).log = s.log := rfl
@[simp] theorem clearAppFlag_disposed (s : State) : (clearAppFlag s).disposed = s.disposed := rfl
@[simp] theorem clearAppFlag_pending (s : State) : (clearAppFlag s).pending = s.pending := rfl
@[simp] theorem clearAppFlag_ret (s : State) : (clearAppFlag s).ret = s.ret := rfl
@[simp] theorem clearAppFlag_returned (s : State) : (clearAppFlag s).returned = s.returned := rfl
@[simp] theorem clearAppFlag_draws (s : State) : (clearAppFlag s).draws = s.draws := rfl

/-! `setAppFlag` -/

@[simp] theorem setAppFlag_params (s : State) : (setAppFlag s).params = s.params := rfl
@[simp] theorem setAppFlag_card (s : State) : (setAppFlag s).card = { s.card with appCmd := true } := rfl
@[simp] theorem setAppFlag_rd (s : State) : (setAppFlag s).rd = s.rd := rfl
@[simp] theorem setAppFlag_wr (s : State) : (setAppFlag s).wr = s.wr := rfl
@[simp] theorem setAppFlag_spi (s : State) : (setAppFlag s).spi = s.spi := rfl
@[simp] theorem setAppFlag_geom (s : State) : (setAppFlag s).geom = s.geom := rfl
@[simp] theorem setAppFlag_storeLen (s : State) : (setAppFlag s).storeLen = s.storeLen := rfl
@[simp] theorem setAppFlag_store (s : State) : (setAppFlag s).store = s.store := rfl
@[simp] theorem setAppFlag_fault (s : State) : (setAppFlag s).fault = s.fault := rfl
@[simp] theorem setAppFlag_log (s : State) : (setAppFlag s).log = s.log := rfl
@[simp] theorem setAppFlag_disposed (s : State) : (setAppFlag s).disposed = s.disposed := rfl
@[simp] theorem setAppFlag_pending (s : State) : (setAppFlag s).pending = s.pending := rfl
@[simp] theorem setAppFlag_ret (s : State) : (setAppFlag s).ret = s.ret := rfl
@[simp] theorem setAppFlag_returned (s : State) : (setAppFlag s).returned = s.returned := rfl
@[simp] theorem setAppFlag_draws (s : State) : (setAppFlag s).draws = s.draws := rfl

/-! `clearIdle` -/

@[simp] theorem clearIdle_params (s : State) : (clearIdle s).params = s.params := rfl
@[simp] theorem clearIdle_card (s : State) : (clearIdle s).card = { s.card with isIdle := false } := rfl
@[simp] theorem clearIdle_rd (s : State) : (clearIdle s).rd = s.rd := rfl
@[simp] theorem clearIdle_wr (s : State) : (clearIdle s).wr = s.wr := rfl
@[simp] theorem clearIdle_spi (s : State) : (clearIdle s).spi = s.spi := rfl
@[simp] theorem clearIdle_geom (s : State) : (clearIdle s).geom = s.geom := rfl
@[simp] theorem clearIdle_storeLen (s : State) : (clearIdle s).storeLen = s.storeLen := rfl
@[simp] theorem clearIdle_store (s : State) : (clearIdle s).store = s.store := rfl
@[simp] theorem clearIdle_fault (s : State) : (clearIdle s).fault = s.fault := rfl
@[simp] theorem clearIdle_log (s : State) : (clearIdle s).log = s.log := rfl
@[simp] theorem clearIdle_disposed (s : State) : (clearIdle s).disposed = s.disposed := rfl
@[simp] theorem clearIdle_pending (s : State) : (clearIdle s).pending = s.pending := rfl
@[simp] theorem clearIdle_ret (s : State) : (clearIdle s).ret = s.ret := rfl
@[simp] theorem clearIdle_returned (s : State) : (clearIdle s).returned = s.returned := rfl
@[simp] theorem clearIdle_draws (s : State) : (clearIdle s).draws = s.draws := rfl

/-! `resetCard` -/

@[simp] theorem resetCard_params (s : State) : (resetCard s).params = s.params := rfl
@[simp] theorem resetCard_card (s : State) :
    (resetCard s).card = { s.card with appCmd := false, isIdle := true } := rfl
@[simp] theorem resetCard_rd (s : State) : (resetCard s).rd = .store 0 0 := rfl
@[simp] theorem resetCard_wr (s : State) : (resetCard s).wr = .store 0 0 := rfl
@[simp] theorem resetCard_spi (s : State) : (resetCard s).spi = SpiFrame.reset := rfl
@[simp] theorem resetCard_geom (s : State) : (resetCard s).geom = s.geom := rfl
@[simp] theorem resetCard_storeLen (s : State) : (resetCard s).storeLen = s.storeLen := rfl
@[simp] theorem resetCard_store (s : State) : (resetCard s).store = s.store := rfl
@[simp] theorem resetCard_fault (s : State) : (resetCard s).fault = s.fault := rfl
@[simp] theorem resetCard_log (s : State) : (resetCard s).log = s.log := rfl
@[simp] theorem resetCard_disposed (s : State) : (resetCard s).disposed = s.disposed := rfl
@[simp] theorem resetCard_pending (s : State) : (resetCard s).pending = s.pending := rfl
@[simp] theorem resetCard_ret (s : State) : (resetCard s).ret = s.ret := rfl
@[simp] theorem resetCard_returned (s : State) : (resetCard s).returned = s.returned := rfl
@[simp] theorem resetCard_draws (s : State) : (resetCard s).draws = s.draws := rfl

/-! `memWrite` -/

@[simp] theorem memWrite_params (a : Nat) (v : List Byte) (s : State) : (memWrite a v s).params = s.params := rfl
@[simp] theorem memWrite_card (a : Nat) (v : List Byte) (s : State) : (memWrite a v s).card = s.card := rfl
@[simp] theorem memWrite_rd (a : Nat) (v : List Byte) (s : State) : (memWrite a v s).rd = s.rd := rfl
@[simp] theorem memWrite_wr (a : Nat) (v : List Byte) (s : State) : (memWrite a v s).wr = s.wr := rfl
@[simp] theorem memWrite_spi (a : Nat) (v : List Byte) (s : State) : (memWrite a v s).spi = s.spi := rfl
@[simp] theorem memWrite_geom (a : Nat) (v : List Byte) (s : State) : (memWrite a v s).geom = s.geom := rfl
@[simp] theorem memWrite_storeLen (a : Nat) (v : List Byte) (s : State) :
    (memWrite a v s).storeLen = s.storeLen := rfl
@[simp] theorem memWrite_store (a : Nat) (v : List Byte) (s : State) :
    (memWrite a v s).store = s.store.writeBytes a (v.take (clip s.storeLen a v.length)) := rfl
@[simp] theorem memWrite_fault (a : Nat) (v : List Byte) (s : State) : (memWrite a v s).fault = s.fault := rfl
@[simp] theorem memWrite_log (a : Nat) (v : List Byte) (s : State) : (memWrite a v s).log = s.log := rfl
@[simp] theorem memWrite_disposed (a : Nat) (v : List Byte) (s : State) :
    (memWrite a v s).disposed = s.disposed := rfl
@[simp] theorem memWrite_pending (a : Nat) (v : List Byte) (s : State) : (memWrite a v s).pending = s.pending := rfl
@[simp] theorem memWrite_ret (a : Nat) (v : List Byte) (s : State) : (memWrite a v s).ret = s.ret := rfl
@[simp] theorem memWrite_returned (a : Nat) (v : List Byte) (s : State) :
    (memWrite a v s).returned = s.returned := rfl
@[simp] theorem memWrite_draws (a : Nat) (v : List Byte) (s : State) : (memWrite a v s).draws = s.draws := rfl

/-! `deliver` -/

@[simp] theorem deliver_params (s : State) : (deliver s).params = s.params := rfl
@[simp] theorem deliver_card (s : State) : (deliver s).card = s.card := rfl
@[simp] theorem deliver_rd (s : State) : (deliver s).rd = s.rd := rfl
@[simp] theorem deliver_wr (s : State) : (deliver s).wr = s.wr := rfl
@[simp] theorem deliver_spi (s : State) : (deliver s).spi = s.spi := rfl
@[simp] theorem deliver_geom (s : State) : (deliver s).geom = s.geom := rfl
@[simp] theorem deliver_storeLen (s : State) : (deliver s).storeLen = s.storeLen := rfl
@[simp] theorem deliver_store (s : State) : (deliver s).store = s.store := rfl
@[simp] theorem deliver_fault (s : State) : (deliver s).fault = s.fault := rfl
@[simp] theorem deliver_log (s : State) : (deliver s).log = s.log := rfl
@[simp] theorem deliver_disposed (s : State) : (deliver s).disposed = s.disposed := rfl
@[simp] theorem deliver_pending (s : State) : (deliver s).pending = s.pending := rfl
@[simp] theorem deliver_ret (s : State) : (deliver s).ret = s.ret := rfl
@[simp] theorem deliver_returned (s : State) : (deliver s).returned = s.returned ++ [s.ret] := rfl
@[simp] theorem deliver_draws (s : State) : (deliver s).draws = s.draws := rfl

end Sys2Proof.Machine
end

