-- ==== Sys2Proof/Laws/Step.lean ====
section
/-! SUPPORT. What a step can do, said once: inversion lemmas for the step, the dispatcher, the framer and the data
ports. Invariants and whole-machine rules are derived from these. -/

namespace Sys2Proof.Machine

@[simp] theorem onNext_next (s : State) (f : State → State) : onNext (.next s) f = .next (f s) := rfl

/-- `onNext` answers a next state exactly when its argument does. -/
theorem onNext_eq_next {o : Host.Outcome State Fault Refusal} {f : State → State} {t : State}
    (h : onNext o f = .next t) : ∃ u, o = .next u ∧ t = f u := by
  cases o with
  | next u => exact ⟨u, rfl, by simpa [onNext] using h.symm⟩
  | fault r => simp [onNext] at h
  | refused r => simp [onNext] at h

/-- A step either finds no call and does nothing, or executes the oldest one and hands its result on. -/
theorem step_cases {s t : State} (h : step s = .next t) :
    (s.pending = [] ∧ t = s) ∨
    ∃ c rest u, s.pending = c :: rest ∧ s.disposed = false ∧
      portCall c { s with pending := rest } = .next u ∧ t = deliver u := by
  simp only [step, runNextCall] at h
  split at h
  · rename_i hp
    exact .inl ⟨hp, by simpa using h.symm⟩
  · rename_i c rest hp
    split at h
    · simp at h
    · rename_i hd
      obtain ⟨u, hu, rfl⟩ := onNext_eq_next h
      exact .inr ⟨c, rest, u, hp, by simpa using hd, hu, rfl⟩

/-- Conversely, a pending call of a card that is not disposed is executed. -/
theorem step_call {s : State} {c : PortCall} {rest : List PortCall} (hp : s.pending = c :: rest)
    (hd : s.disposed = false) : step s = onNext (portCall c { s with pending := rest }) deliver := by
  simp [step, runNextCall, hp, hd]

@[simp] theorem steps_zero (s : State) : steps 0 s = .next s := rfl

/-- A run whose first step answers `t` is a shorter run from `t`. -/
theorem steps_next {s t : State} (k : Nat) (h : step s = .next t) : steps (k + 1) s = steps k t := by
  simp only [steps, h]

/-- `steps` is the host's run of the machine. -/
theorem steps_eq_run : ∀ (k : Nat) (s : State), steps k s = Host.Core.run core k s
  | 0, _ => rfl
  | k + 1, s => by
    have hs : core.step s = step s := rfl
    cases h : step s with
    | next t => simp only [steps, Host.Core.run, hs, h]; exact steps_eq_run k t
    | fault r => simp only [steps, Host.Core.run, hs, h]; rfl
    | refused r => simp only [steps, Host.Core.run, hs, h]; rfl

/-- Every instruction has its meaning and none stops. -/
theorem exec_answers (i : Instr) (s : State) : ∃ t, exec i s = .next t := by
  cases i <;> exact ⟨_, rfl⟩

theorem isAppNumber_iff (n : Word) : isAppNumber n = true ↔ n ∈ applicationTable.map (·.1) := by
  simp [isAppNumber, applicationTable, or_assoc]

/-- Consuming the flag (43_standard_commands.md R200) in the words of the statements. -/
theorem consumeAppFlag_eq (n : Word) (s : State) : consumeAppFlag n s = s.afterConsume n := by
  have hn := isAppNumber_iff n
  unfold consumeAppFlag State.afterConsume
  cases hc : s.card.appCmd <;> cases hi : isAppNumber n <;>
    simp_all [clearAppFlag, logEvent]

/-- Dispatch runs a command of a table or answers as unrecognized. -/
theorem dispatch_cases {n a : Word} {s t : State} (h : dispatch n a s = .next t) :
    (∃ i, decodeCommand s.card.appCmd n a = .ok i ∧ exec i (s.afterConsume n) = .next t) ∨
    ((∃ e, decodeCommand s.card.appCmd n a = .error e) ∧ t = unrecognized (s.afterConsume n)) := by
  simp only [dispatch, consumeAppFlag_eq] at h
  split at h
  · rename_i i hi
    exact .inl ⟨i, hi, h⟩
  · rename_i e he
    exact .inr ⟨⟨e, he⟩, by simpa using h.symm⟩

/-- Dispatch always answers a next state. -/
theorem dispatch_answers (n a : Word) (s : State) : ∃ t, dispatch n a s = .next t := by
  simp only [dispatch]
  split
  · exact exec_answers _ _
  · exact ⟨_, rfl⟩

/-- An exchange is a contract fault with SPI disabled; else the framer's state says which of its five actions it is. -/
theorem transmit_cases {x : Byte} {s t : State} (h : transmit x s = .next t) :
    (s.params.spiMode = false ∧ t = respondByte 0x00 (contractFault .spiDisabled s)) ∨
    (s.params.spiMode = true ∧
      ((s.spi.state = .waitingForCommand ∧ ((x = 0xFF ∧ exec .fill s = .next t) ∨
          (∃ n, decodeByte x = .ok (.token n) ∧ exec (.token n) s = .next t) ∨
          ((∃ e, decodeByte x = .error e) ∧ t = malformedToken s))) ∨
        (s.spi.state = .waitingForArgBytes ∧ t = argumentByte x s) ∨
        (s.spi.state = .waitingForCRC ∧
          ∃ u, dispatch (s.spi.cmdNum.setWidth 32) s.spi.arg s = .next u ∧ t = startResponse u) ∨
        (s.spi.state = .sendingResponse ∧ t = sendByte s))) := by
  simp only [transmit] at h
  split at h
  · rename_i hm
    refine .inr ⟨hm, ?_⟩
    split at h
    · rename_i hs
      refine .inl ⟨hs, ?_⟩
      split at h
      · rename_i i hi
        unfold decodeByte at hi
        split at hi
        · rename_i hx
          cases hi
          exact .inl ⟨hx, h⟩
        · split at hi
          · rename_i hff htok
            cases hi
            exact .inr (.inl ⟨_, by unfold decodeByte; rw [if_neg hff, if_pos htok], h⟩)
          · cases hi
      · rename_i e he
        exact .inr (.inr ⟨⟨e, he⟩, by simpa using h.symm⟩)
    · rename_i hs
      exact .inr (.inl ⟨hs, by simpa using h.symm⟩)
    · rename_i hs
      obtain ⟨u, hu, rfl⟩ := onNext_eq_next h
      exact .inr (.inr (.inl ⟨hs, u, hu, rfl⟩))
    · rename_i hs
      exact .inr (.inr (.inr ⟨hs, by simpa using h.symm⟩))
  · rename_i hm
    exact .inl ⟨by simpa using hm, by simpa using h.symm⟩

/-- What noting a short read does. -/
theorem noteShortRead_eq (out : List Byte) (n : Nat) (s : State) :
    noteShortRead out n s =
      { s with log := if out.length < n then s.log ++ [⟨.warning, .shortRead⟩] else s.log } := by
  unfold noteShortRead
  split <;> rfl

/-- What noting a short write does. -/
theorem noteShortWrite_eq (k n : Nat) (s : State) :
    noteShortWrite k n s = { s with log := if k < n then s.log ++ [⟨.warning, .shortWrite⟩] else s.log } := by
  unfold noteShortWrite
  split <;> rfl

/-- `readData` is rejected, or moves the read context's own cursor and returns the transfer's bytes. -/
theorem readData_cases (n : Word) (s : State) :
    ((s.rd.bytesLeft = 0 ∨ s.rd.bytesLeft < n.toNat) ∧
      readData n s = respond (.bytes []) (logEvent .warning .readRejected s)) ∨
    (0 < s.rd.bytesLeft ∧ n.toNat ≤ s.rd.bytesLeft ∧ ∃ c, s.rd.advance n.toNat = .ok c ∧
      readData n s = respond (.bytes (transferBytes s.rd n.toNat s))
        { noteShortRead (transferBytes s.rd n.toNat s) n.toNat s with rd := c }) := by
  by_cases h : 0 < s.rd.bytesLeft ∧ n.toNat ≤ s.rd.bytesLeft
  · refine .inr ⟨h.1, h.2, _, IoCtx.advance_ok _ _ h.2, ?_⟩
    have hr : (noteShortRead (transferBytes s.rd n.toNat s) n.toNat s).rd = s.rd := by
      unfold noteShortRead; split <;> rfl
    simp only [readData, IoCtx.isActive, IoCtx.canAccept, h.1, h.2, decide_true, Bool.and_self, if_true, hr,
      IoCtx.advance_ok _ _ h.2, orFault]
  · refine .inl ⟨by omega, ?_⟩
    have : (s.rd.isActive && s.rd.canAccept n.toNat) = false := by
      simp only [IoCtx.isActive, IoCtx.canAccept, Bool.and_eq_false_iff, decide_eq_false_iff_not]
      omega
    simp [readData, this]

/-- `writeData` is rejected, or stores through `MemWrite` and moves the write context's own cursor. -/
theorem writeData_cases (v : List Byte) (s : State) :
    ((s.wr.bytesLeft = 0 ∨ s.wr.bytesLeft < v.length) ∧
      writeData v s = respond .nothing (logEvent .warning .writeRejected s)) ∨
    (0 < s.wr.bytesLeft ∧ v.length ≤ s.wr.bytesLeft ∧ ∃ c, s.wr.advance v.length = .ok c ∧
      writeData v s = respond .nothing
        { noteShortWrite (clip s.storeLen s.wr.offset.toNat v.length) v.length
            (memWrite s.wr.offset.toNat v s) with wr := c }) := by
  by_cases h : 0 < s.wr.bytesLeft ∧ v.length ≤ s.wr.bytesLeft
  · refine .inr ⟨h.1, h.2, _, IoCtx.advance_ok _ _ h.2, ?_⟩
    have hr : (noteShortWrite (clip s.storeLen s.wr.offset.toNat v.length) v.length
        (memWrite s.wr.offset.toNat v s)).wr = s.wr := by
      unfold noteShortWrite; split <;> rfl
    simp only [writeData, IoCtx.isActive, IoCtx.canAccept, h.1, h.2, decide_true, Bool.and_self, if_true, hr,
      IoCtx.advance_ok _ _ h.2, orFault]
  · refine .inl ⟨by omega, ?_⟩
    have : (s.wr.isActive && s.wr.canAccept v.length) = false := by
      simp only [IoCtx.isActive, IoCtx.canAccept, Bool.and_eq_false_iff, decide_eq_false_iff_not]
      omega
    simp [writeData, this]

/-- A block read of SPI CMD17 leaves `rd` at the armed offset plus the block, with nothing left (R211). -/
theorem readBlockInline_eq (off : Word) (s : State) (h : s.rd = .store off s.card.blockLen) :
    readBlockInline s =
      respondFrame (readDataFrame (memRead off.toNat s.card.blockLen.toNat s) s)
        { noteShortRead (memRead off.toNat s.card.blockLen.toNat s) s.card.blockLen.toNat s with
          rd := .store (off + s.card.blockLen) 0 } := by
  have hr : ∀ out n, (noteShortRead out n s).rd = s.rd := by
    intro out n; unfold noteShortRead; split <;> rfl
  have hf : ∀ out n data, readDataFrame data (noteShortRead out n s) = readDataFrame data s := by
    intro out n data; unfold noteShortRead; split <;> rfl
  unfold readBlockInline
  simp only [hr, h, IoCtx.offset, hf]
  rw [IoCtx.advance_ok _ _ (by simp [IoCtx.bytesLeft])]
  simp [orFault, BitVec.ofNat_toNat]

end Sys2Proof.Machine
end

