-- ==== Sys2Proof/Tests/Slice0.lean ====
section
/-! SUPPORT. The model's own tests. Every expected value is from spec/95_test_vectors.md (V.., X..), from a table of the
spec, or worked out by hand from the rule named; the witnesses show that the statements' hypotheses can be met. -/

namespace Sys2Proof.Tests

open Sys2Proof.Machine

/-! ### The vectors' cards (95_test_vectors.md section 0) -/

/-- The parameters of the vectors. -/
def vecParams (spi : Bool) : Params where
  spiMode := spi
  requestedCapacity := 16777216
  cardAddress := 0x1234
  blockLenInit := 512
  cid := 0x112233445566778899AABBCCDDEEFF00
  csdBase := 0
  scr := 0x0235800000000000
  sdStatus := 0
  blMin := 0
  blMax := 15

/-- The vectors' fresh card, with the first 32 bytes of their store, `STORE[i] = i`. -/
def vec (spi : Bool) : State where
  params := vecParams spi
  card := { isIdle := true, appCmd := false, rca := 0x1234, blockLen := 512 }
  rd := .store 0 0
  wr := .store 0 0
  spi := SpiFrame.reset
  geom := { m := 7, d := 4095, b := 3 }
  storeLen := 16777216
  store := (List.range' 1 31).map fun a => (a, BitVec.ofNat 8 a)
  fault := FaultSet.empty
  log := []
  disposed := false
  pending := []
  ret := .nothing
  returned := []
  draws := 0

/-- The card with the app flag set. -/
def flagged (spi : Bool) : State := { vec spi with card := { (vec spi).card with appCmd := true } }

/-- The card with one call pending. -/
def calling (spi : Bool) (c : PortCall) : State := { vec spi with pending := [c] }

/-- A card of 4096 bytes: geometry (0, 1023, 0), block length 4. -/
def smallCard (spi : Bool) : State :=
  { vec spi with
    geom := { m := 0, d := 1023, b := 0 }, storeLen := 4096
    card := { (vec spi).card with blockLen := 4 } }

/-- The state an outcome is, if it is a next state. -/
def stateOf (o : Host.Outcome State Fault Refusal) : Option State :=
  match o with
  | .next t => some t
  | .fault _ => none
  | .refused _ => none

/-- The bytes a result is. -/
def resultBytes : PortResult → List Byte
  | .stream b => bytes b
  | .byte x => [x]
  | .bytes v => v
  | .nothing => []

/-- The bytes an outcome's call returns. -/
def answer (o : Host.Outcome State Fault Refusal) : Option (List Byte) := (stateOf o).map fun t => resultBytes t.ret

/-- The log after an outcome. -/
def logOf (o : Host.Outcome State Fault Refusal) : Option (List Event) := (stateOf o).map (·.log)

/-! ### Decoding: each constructor, its bytes written out from 30_encoding.md R81, R82, R86 -/

theorem test_decode_cmd0 : decode false [0b01000000, 0, 0, 0, 0, 0x95] = .ok (.cmd0 0, []) := by decide
theorem test_decode_cmd2 : decode false [0b01000010, 0, 0, 0, 1, 0x95] = .ok (.cmd2 1, []) := by decide
theorem test_decode_cmd3 : decode false [0b01000011, 0, 0, 1, 0, 0x95] = .ok (.cmd3 0x100, []) := by decide
theorem test_decode_cmd7 : decode false [0b01000111, 0x12, 0x34, 0, 0, 0] = .ok (.cmd7 0x12340000, []) := by decide
theorem test_decode_cmd8 : decode false [0b01001000, 0, 0, 0x01, 0xAA, 0x87] = .ok (.cmd8 0x1AA, []) := by decide
theorem test_decode_cmd9 : decode false [0b01001001, 0x80, 0, 0, 0, 1] = .ok (.cmd9 0x80000000, []) := by decide
theorem test_decode_cmd12 : decode false [0b01001100, 0, 0, 0, 0, 1] = .ok (.cmd12 0, []) := by decide
theorem test_decode_cmd13 : decode false [0b01001101, 0, 0, 0, 0, 1] = .ok (.cmd13 0, []) := by decide
theorem test_decode_cmd16 : decode false [0b01010000, 0xFF, 0x40, 0xFF, 0x40, 1] = .ok (.cmd16 0xFF40FF40, []) := by
  decide
theorem test_decode_cmd17 : decode true [0b01010001, 0, 0, 0x02, 0, 1] = .ok (.cmd17 0x200, []) := by decide
theorem test_decode_cmd18 : decode false [0b01010010, 0, 0, 0, 4, 1] = .ok (.cmd18 4, []) := by decide
theorem test_decode_cmd24 : decode false [0b01011000, 0, 0, 0, 1, 1, 0xFF] = .ok (.cmd24 1, [0xFF]) := by decide
theorem test_decode_cmd55 : decode true [0b01110111, 0, 0, 0, 0, 1] = .ok (.cmd55 0, []) := by decide
theorem test_decode_cmd58 : decode false [0b01111010, 0, 0, 0, 0, 1] = .ok (.cmd58 0, []) := by decide
theorem test_decode_acmd13 : decode true [0b01001101, 0, 0, 0, 0, 1] = .ok (.acmd13 0, []) := by decide
theorem test_decode_acmd41 : decode true [0b01101001, 0x40, 0, 0, 0, 1] = .ok (.acmd41 0x40000000, []) := by decide
theorem test_decode_acmd51 : decode true [0b01110011, 0, 0, 0, 0, 1] = .ok (.acmd51 0, []) := by decide
theorem test_decode_fill : decode false [0b11111111, 0x40] = .ok (.fill, [0x40]) := by decide
theorem test_decode_token : decode false [0b01011001, 0, 0, 0, 0, 1] = .ok (.token 25, [0, 0, 0, 0, 1]) := by decide

/-- Words numbered as the opcode table numbers them: the first byte in the low eight bits. -/
theorem test_decode_table_words :
    decodeTableWord 48 0x950002000051 = some (.cmd17 0x200) ∧ decodeTableWord 48 0x69 = some (.acmd41 0) ∧
    decodeTableWord 48 0x73 = some (.acmd51 0) ∧ decodeTableWord 48 0x4D = some (.cmd13 0) ∧
    decodeTableWord 8 0xFF = some .fill ∧ decodeTableWord 8 0x59 = some (.token 25) ∧ decodeTableWord 8 0x80 = none := by
  decide

/-- What no instruction is, by name (R89, R90). -/
theorem test_decode_rejects :
    decodeByte 0x3F = .error (.malformedToken 0x3F) ∧ decodeByte 0xFE = .error (.malformedToken 0xFE) ∧
    decodeCommand false 64 0 = .error (.unrecognized 64) ∧ decodeCommand false 41 0 = .error (.unrecognized 41) ∧
    decode false [] = .error .noBytes := by decide

/-! ### Well-formedness -/

/-- A CSD_BASE with a bit at each end of each geometry field is refused; one outside them is not (00_scope.md R9). -/
theorem test_params_wf :
    (vecParams true).wf = true ∧
    (∀ k ∈ [47, 49, 62, 73, 80, 83], ({ vecParams true with csdBase := BitVec.twoPow 128 k } : Params).wf = false) ∧
    (∀ k ∈ [46, 50, 61, 74, 79, 84, 127], ({ vecParams true with csdBase := BitVec.twoPow 128 k } : Params).wf = true) := by
  decide

/-- Ill-formed parameters are refused (00_scope.md R9). -/
theorem test_construct_refuses :
    construct { vecParams true with csdBase := BitVec.twoPow 128 47 } [] = .refused .illFormedParameters := by
  have h : ({ vecParams true with csdBase := BitVec.twoPow 128 47 } : Params).wf = false := by decide
  simp only [construct, h, Bool.false_eq_true, if_false]

/-- V3, and a fragment of no width: refused (R121). -/
theorem test_reg_wf :
    Reg.wf ⟨8, [⟨6, 4, .const 0⟩]⟩ = false ∧ Reg.wf ⟨8, [⟨2, 0, .const 0⟩]⟩ = false ∧
    Reg.wf ⟨8, [⟨4, 4, .const 0⟩]⟩ = true ∧ Reg.read ⟨8, [⟨6, 4, .const 0⟩]⟩ (vec true).card = none := by
  refine ⟨by decide, by decide, by decide, rfl⟩

/-- The frame and context checks of the invariant refuse ill-formed terms (10_state.md R34, 41_io_context.md R168). -/
theorem test_frame_and_context_wf :
    SpiFrame.wf { SpiFrame.reset with queue := [0] } = false ∧
    SpiFrame.wf { SpiFrame.reset with state := .waitingForArgBytes, argCount := 4 } = false ∧
    SpiFrame.wf { SpiFrame.reset with state := .sendingResponse, queue := [0] } = true ∧
    IoCtx.wf (.override (List.replicate 16 false) 4 0) = false ∧
    IoCtx.wf (.override (List.replicate 16 false) 24 0) = false ∧
    IoCtx.wf (.override (List.replicate 16 false) 16 0) = true := by decide

/-- The store's form: unsorted, repeated and default cells are refused; writing the default removes a cell. -/
theorem test_memory_form :
    Memory.wf [(2, 1), (1, 1)] = false ∧ Memory.wf [(1, 1), (1, 2)] = false ∧ Memory.wf [(1, 0)] = false ∧
    State.reset.store.wf = true ∧ Memory.writeByte [(1, 1), (3, 3)] 2 2 = [(1, 1), (2, 2), (3, 3)] ∧
    Memory.writeByte [(1, 1), (3, 3)] 3 0 = [(1, 1)] ∧ Memory.readByte [(1, 1), (3, 3)] 2 = 0 := by decide

/-! ### Composer and registers: V1, V2, V4 to V9, X11 -/

theorem test_composer :
    Reg.value ⟨16, [⟨0, 4, .const 0x1F⟩, ⟨8, 1, .const 1⟩]⟩ (vec true).card = 0x010F ∧
    bytes (bits (0x010F : BitVec 16)) = [0x01, 0x0F] ∧
    Reg.value ⟨8, [⟨4, 4, .const 0xAB⟩]⟩ (vec true).card = 0xB0 := by decide

theorem test_status_and_ocr :
    cardStatus (vec false) = 0x00000100 ∧ cardStatus (flagged false) = 0x00000120 ∧ ocr (vec false) = 0x80FF8000 := by
  decide

theorem test_csd :
    csd (vec false) = 0x00000000000303FFC003800000000000 ∧
    csd { vec false with geom := ⟨0, 0, 0⟩ } = 0 ∧
    csd { vec false with geom := ⟨7, 4095, 15⟩ } = 0x00000000000F03FFC003800000000000 ∧
    csd { vec false with geom := ⟨0, 1023, 0⟩ } = 0x00000000000000FFC000000000000000 := by decide

set_option maxRecDepth 10000 in
theorem test_accessors :
    answer (readRegister .scr (vec false)) = some [0x02, 0x35, 0x80, 0, 0, 0, 0, 0] ∧
    answer (readRegister .ocr (vec false)) = some [0x80, 0xFF, 0x80, 0] ∧
    (answer (readRegister .sdStatus (vec false))).map List.length = some 64 ∧
    (stateOf (readRegister .csd (vec false))).map (·.log) = some [] := by decide

/-! ### Capacity: V12 to V17, R145 -/

set_option maxRecDepth 10000 in
theorem test_capacity :
    deriveCapacity 3 0 15 = some ⟨0, 0, 0⟩ ∧ deriveCapacity 0 0 15 = some ⟨0, 0, 0⟩ ∧
    deriveCapacity 1000 0 15 = some ⟨0, 249, 0⟩ ∧ deriveCapacity 16777217 0 15 = some ⟨7, 2048, 4⟩ ∧
    deriveCapacity 16777216 9 11 = some ⟨1, 4095, 9⟩ := by decide

set_option maxRecDepth 20000 in
theorem test_capacity_large :
    deriveCapacity 68719476735 0 15 = some ⟨7, 4095, 15⟩ ∧ deriveCapacity 68719476737 0 15 = none ∧
    deriveCapacity 4294967297 0 15 = some ⟨7, 2048, 12⟩ ∧ deriveCapacity 4294967297 9 11 = none := by decide

/-! ### I/O contexts: V18 to V28 -/

set_option maxRecDepth 10000 in
theorem test_context_operations :
    (IoCtx.override (bits (vecParams true).scr) 64 7).setOffset 1024 = .store 1024 7 ∧
    ((IoCtx.store 512 0).bindOverrideData (bits (vecParams true).scr)).bytesLeft = 8 ∧
    (IoCtx.override (bits (vecParams true).sdStatus) 80 0).bytesLeft = 54 ∧
    (IoCtx.override (bits (vecParams true).scr) 8 9).resetCtx = .store 0 0 ∧
    (IoCtx.store 0 512).canAccept 512 = true ∧ (IoCtx.store 0 512).canAccept 513 = false := by decide

theorem test_context_advance :
    (IoCtx.store 0 512).advance 512 = .ok (.store 512 0) ∧ (IoCtx.store 0 8).advance 9 = .error .advanceUnderflow ∧
    (IoCtx.store 0xFFFFFFF0 32).advance 32 = .ok (.store 0x10 0) ∧
    (IoCtx.store 1024 0).setBytesLeft 4096 = .ok (.store 1024 4096) ∧
    (IoCtx.override (bits (vecParams true).scr) 64 0).setBytesLeft 1 = .error .setBytesLeftWhileBound := by decide

/-! ### SPI bytes: V29 to V40 -/

theorem test_fill : answer (exec .fill (vec true)) = some [0x01] ∧
    answer (exec .fill { vec true with card := { (vec true).card with isIdle := false } }) = some [0x00] := by decide

theorem test_token : (stateOf (exec (.token 17) (vec true))).map (·.spi) =
    some { state := .waitingForArgBytes, cmdNum := 17, arg := 0, argCount := 0, queue := [] } := by decide

theorem test_malformed : answer (transmit 0xC0 (vec true)) = some [0x05] ∧
    logOf (transmit 0xFE (vec true)) = some [⟨.warning, .malformedToken⟩] ∧
    answer (transmit 0x3F { vec true with card := { (vec true).card with isIdle := false } }) = some [0x04] := by decide

theorem test_argument_byte : (stateOf (transmit 0xFF
      { vec true with spi := { state := .waitingForArgBytes, cmdNum := 16, arg := 0x00FF40, argCount := 3, queue := [] } })).map
        (·.spi) = some { state := .waitingForCRC, cmdNum := 16, arg := 0x00FF40FF, argCount := 4, queue := [] } := by decide

/-- V53: block length 0, CMD17 in SPI mode queues the marker alone. -/
theorem test_crc_byte : (stateOf (transmit 0x00
      { vec true with
        card := { (vec true).card with blockLen := 0 }
        spi := { state := .waitingForCRC, cmdNum := 17, arg := 3, argCount := 4, queue := [] } })).map
        (fun t => (t.spi.queue, t.spi.state, t.ret)) = some ([0xFE], .sendingResponse, .byte 0x01) := by decide

/-- V39: an exchange with an empty queue returns 0x00, its byte discarded, and the framer waits for a command. -/
theorem test_drain : (stateOf (transmit 0x40
      { vec true with spi := { state := .sendingResponse, cmdNum := 9, arg := 5, argCount := 4, queue := [] } })).map
        (fun t => (t.ret, t.spi)) = some (.byte 0x00,
          { state := .waitingForCommand, cmdNum := 9, arg := 5, argCount := 4, queue := [] }) := by decide

theorem test_native_transmit : (stateOf (transmit 0x40 (vec false))).map (fun t => (t.ret, t.fault, t.spi)) =
    some (.byte 0, ⟨true, false, false⟩, SpiFrame.reset) := by decide

/-! ### Standard commands: V44 to V66 -/

theorem test_cmd0 : (stateOf (exec (.cmd0 0)
      { flagged true with rd := .override [] 0 9, wr := .store 1 2 })).map (fun t => (resultBytes t.ret, t.rd, t.wr, t.card.appCmd)) =
    some ([0x01], .store 0 0, .store 0 0, false) ∧ answer (exec (.cmd0 0) (vec false)) = some [] := by decide

theorem test_cmd2 : answer (exec (.cmd2 0) (vec false)) =
      some [0x11, 0x22, 0x33, 0x44, 0x55, 0x66, 0x77, 0x88, 0x99, 0xAA, 0xBB, 0xCC, 0xDD, 0xEE, 0xFF, 0x00] ∧
    answer (exec (.cmd2 0) (vec true)) = some [0x05] := by decide

theorem test_cmd3 : answer (exec (.cmd3 0) (vec false)) = some [0x12, 0x34, 0x01, 0x00] ∧
    logOf (exec (.cmd3 0) (vec true)) = some [⟨.warning, .unsupportedInSpi⟩] := by decide

theorem test_cmd7 : answer (exec (.cmd7 0x12340000) (vec false)) = some [0, 0, 1, 0] ∧
    answer (exec (.cmd7 0x12340000) (vec true)) = some [0x05] := by decide

theorem test_cmd8 : answer (exec (.cmd8 0x1AA) (vec true)) = some [0x01, 0, 0, 0, 0] ∧
    answer (exec (.cmd8 0x1AA) (vec false)) = some [0, 0, 1, 0] := by decide

theorem test_cmd9 : answer (exec (.cmd9 0) (vec true)) = some [0x01] ∧
    answer (exec (.cmd9 0) (vec false)) = some [0, 0, 0, 0, 0, 3, 3, 0xFF, 0xC0, 3, 0x80, 0, 0, 0, 0, 0] := by decide

theorem test_cmd12 : (stateOf (exec (.cmd12 0) { vec true with rd := .store 0 512 })).map
    (fun t => (resultBytes t.ret, t.rd)) = some ([0x01], .store 0 0) := by decide

theorem test_cmd13 : answer (exec (.cmd13 0) (vec true)) = some [0x01, 0x00] ∧
    answer (exec (.cmd13 0) (vec false)) = some [0, 0, 1, 0] := by decide

theorem test_cmd16 : (stateOf (exec (.cmd16 0xFF40FF40) (vec false))).map (·.card.blockLen) = some 0xFF40FF40 := by decide

/-- V54, V55: the product, and its wrap. -/
theorem test_cmd17_native : (stateOf (exec (.cmd17 2) (vec false))).map (·.rd) = some (.store 1024 512) ∧
    (stateOf (exec (.cmd17 0x800000) (vec false))).map (·.rd) = some (.store 0 512) := by decide

/-- P1's block read (block length 4, argument 1), and V57's at the end of a 4096-byte card. -/
theorem test_cmd17_spi : answer (exec (.cmd17 1) (smallCard true)) = some [0x01, 0xFE, 4, 5, 6, 7] ∧
    (stateOf (exec (.cmd17 1024) (smallCard true))).map (fun t => (resultBytes t.ret, t.rd, t.log)) =
      some ([0x01, 0xFE], .store 4100 0, [⟨.warning, .shortRead⟩]) := by decide

/-- V58, V59: the counter is kept, a saved one comes back. -/
theorem test_cmd18 : (stateOf (exec (.cmd18 4) (vec false))).map (·.rd) = some (.store 2048 0) ∧
    (stateOf (exec (.cmd18 1) { vec false with rd := .override (bits (0 : BitVec 512)) 80 512 })).map (·.rd) =
      some (.store 512 512) := by decide

theorem test_cmd24 : (stateOf (exec (.cmd24 1) (vec false))).map (·.wr) = some (.store 512 512) ∧
    (stateOf (exec (.cmd24 1) (vec true))).map (fun t => (resultBytes t.ret, t.wr)) = some ([0x05], .store 0 0) := by decide

theorem test_cmd55 : (stateOf (exec (.cmd55 0) (vec false))).map (fun t => (resultBytes t.ret, t.card.appCmd)) =
    some ([0, 0, 1, 0x20], true) ∧ answer (exec (.cmd55 0) (vec true)) = some [0x01] := by decide

theorem test_cmd58 : answer (exec (.cmd58 0) (vec true)) = some [0x01, 0, 0, 0, 0] ∧
    answer (exec (.cmd58 0) (vec false)) = some [] := by decide

/-- V64, V66, V95: unrecognized numbers. -/
theorem test_unrecognized : answer (dispatch 25 0 (vec true)) = some [0x05] ∧
    answer (dispatch 0xFFFFFFFF 0 (vec false)) = some [] ∧
    logOf (dispatch 25 0 (flagged false)) = some [⟨.debug, .notAppCommand⟩, ⟨.warning, .unknownCommand⟩] := by decide

/-! ### Application commands: V69 to V74 -/

set_option maxRecDepth 10000 in
theorem test_acmd13 : answer (dispatch 13 0 (flagged false)) = some [0, 0, 1, 0] ∧
    (stateOf (dispatch 13 0 (flagged true))).map (fun t => (resultBytes t.ret, t.rd.bytesLeft)) = some ([0x01, 0x00], 64) := by
  decide

theorem test_acmd41 : (stateOf (dispatch 41 0 (flagged false))).map (fun t => (resultBytes t.ret, t.card.isIdle)) =
      some ([0x80, 0xFF, 0x80, 0x00], false) ∧
    answer (dispatch 41 0 (flagged true)) = some [0x00] := by decide

theorem test_acmd51 : (stateOf (dispatch 51 0 (flagged false))).map (fun t => (resultBytes t.ret, t.rd.bytesLeft)) =
      some ([0, 0, 1, 0], 8) ∧
    (stateOf (dispatch 51 0 (flagged false))).map (fun t => (readData 3 t).ret) = some (.bytes [0x02, 0x35, 0x80]) := by decide

/-! ### Data path: V75 to V91 -/

theorem test_read_data : (readData 1 (vec false)).ret = .bytes [] ∧
    (readData 5 { vec false with rd := .store 16 8 }).ret = .bytes [16, 17, 18, 19, 20] ∧
    (readData 8 { smallCard false with rd := .store 4094 20 }).rd = .store 4102 12 ∧
    (readData 8 { smallCard false with rd := .store 4094 20 }).ret = .bytes [0, 0] ∧
    (readData 0 { vec false with rd := .store 0 512 }).log = [] := by decide

theorem test_write_data :
    (writeData [0xA0, 0xA1] { vec false with wr := .store 16 8 }).store.readByte 17 = 0xA1 ∧
    (writeData [0xA0, 0xA1] { vec false with wr := .store 16 8 }).wr = .store 18 6 ∧
    (writeData [1, 2, 3] { vec false with wr := .store 16 2 }).store = (vec false).store ∧
    (writeData [1, 2] { smallCard false with wr := .store 4095 8 }).log = [⟨.warning, .shortWrite⟩] ∧
    (writeData [1, 2] { smallCard false with wr := .store 4095 8 }).store.readByte 4096 = 0 := by decide

/-- V15's card: its bytes at 2^32 and up are unreachable (R51, log 24). -/
def bigCard : State := { vec false with geom := ⟨7, 2048, 12⟩, storeLen := 4297064448 }

theorem test_reach :
    (readData 2 { bigCard with rd := .store 0xFFFFFFFF 2 }).ret = .bytes [0] ∧
    (readData 2 { bigCard with rd := .store 0xFFFFFFFF 2 }).log = [⟨.warning, .shortRead⟩] ∧
    (writeData [1, 2] { bigCard with wr := .store 0xFFFFFFFF 2 }).store.readByte 4294967295 = 1 ∧
    (writeData [1, 2] { bigCard with wr := .store 0xFFFFFFFF 2 }).store.readByte 4294967296 = 0 := by decide

theorem test_set_read_limit : (setReadLimit 2048 (vec false)).rd = .store 0 2048 ∧
    (setReadLimit 10 { vec false with rd := .override (bits (vecParams true).scr) 0 0 }).fault = ⟨false, true, false⟩ := by decide

/-! ### The ports -/

/-- X2: the container's reset. -/
theorem test_reset : (stateOf (step { flagged true with
      pending := [.reset], rd := .override [] 0 3
      spi := { state := .waitingForArgBytes, cmdNum := 17, arg := 0, argCount := 2, queue := [] } })).map
        (fun t => (t.card.isIdle, t.card.appCmd, t.rd, t.spi)) = some (true, false, .store 0 0, SpiFrame.reset) := by decide

/-- A disposed card refuses; a table word placed at reset is what the next step runs. -/
theorem test_step : step { calling true .reset with disposed := true } = .refused .disposed ∧
    answer (step ((vec true).withFetchWord 48 0x69)) = some [0x00] ∧
    (stateOf (step ((vec true).withFetchWord 8 0x59))).map (·.spi.cmdNum) = some 25 := by
  refine ⟨rfl, by decide, by decide⟩

/-! ### Witnesses: for each statement with hypotheses, a concrete case that meets all of them, one for each clause.
A statement about a card in one mode has both modes' witnesses in `witness_modes`; one about a step that answers has
`witness_step`. -/

/-- Both modes of a card: SendIdentificationReply, SendRelativeAddressReply, SelectDeselectReply,
ReadSingleBlockArmsRead, ReadSingleBlockSendsBlock, ReadMultipleBlocksSetsOffset, WriteSingleBlockArmsWrite. -/
theorem witness_modes : (vec false).params.spiMode = false ∧ (vec true).params.spiMode = true := by decide

/-- A state that meets the invariant and whose step answers, with a call pending and with none: GeometryEncodesStoreLength,
ParametersNeverChange, FaultRecordIsSticky, NoStepRecordsAdvanceUnderflow, StepKeepsInvariant. -/
theorem witness_step :
    (calling true (.transmit 0xFF)).Inv ∧ (∃ t, step (calling true (.transmit 0xFF)) = .next t) ∧
    (vec false).Inv ∧ ∃ t, step (vec false) = .next t :=
  ⟨by decide, ⟨_, rfl⟩, by decide, ⟨_, rfl⟩⟩

/-- DecodeEncodeAgree: an unshared number, a shared one under each flag, a token followed by fewer than five bytes, and
one in no table followed by five. -/
theorem witness_DecodeEncodeAgree :
    (Instr.cmd17 0xFFFFFFFF).wf = true ∧ (Instr.cmd17 0xFFFFFFFF).readUnder true = true ∧
    (Instr.cmd13 0).readUnder false = true ∧ (Instr.acmd13 0).readUnder true = true ∧
    (Instr.token 17).wf = true ∧ (Instr.token 17).readUnder true = true ∧ ([1, 2, 3, 4] : List Byte).length < 5 ∧
    (25 : BitVec 6).setWidth 32 ∉ standardTable.map (·.1) ∧ (25 : BitVec 6).setWidth 32 ∉ applicationTable.map (·.1) := by
  decide

/-- EncodeDecodeAgree: a frame, a filler, a lone token. -/
theorem witness_EncodeDecodeAgree :
    decode true [0x73, 0, 0, 0, 0, 9, 8] = .ok (.acmd51 0, [8]) ∧ decode false [0xFF] = .ok (.fill, []) ∧
    decode false [0x40, 0] = .ok (.token 0, [0]) := by decide

/-- StepRunsDecodedInstruction: its three clauses on instructions, and those on the other ports (V64's call). -/
theorem witness_StepRunsDecodedInstruction :
    ((calling true (.transmit 0xFF)).disposed = false ∧ Instr.fill.wf = true ∧
      (calling true (.transmit 0xFF)).pending = [.transmit 0xFF] ∧ (vec true).params.spiMode = true ∧
      (vec true).spi.state = .waitingForCommand ∧ decodeByte 0xFF = .ok .fill) ∧
    ((calling false (.handleCommand 24 1)).pending = [.handleCommand 24 1] ∧
      decodeCommand (vec false).card.appCmd 24 1 = .ok (.cmd24 1)) ∧
    (∃ s : State, s.disposed = false ∧ s.pending = [.transmit 0x95] ∧ s.params.spiMode = true ∧
      s.spi.state = .waitingForCRC ∧ decodeCommand s.card.appCmd (s.spi.cmdNum.setWidth 32) s.spi.arg = .ok (.cmd17 7)) ∧
    (∀ c ∈ ([.handleCommand 25 0, .readData 1, .writeData [7], .setReadLimit 9, .readRegister .csd] : List PortCall),
      (calling false c).disposed = false ∧ (calling false c).pending = [c]) := by
  refine ⟨by decide, by decide, ⟨{ calling true (.transmit 0x95) with
    spi := { state := .waitingForCRC, cmdNum := 17, arg := 7, argCount := 4, queue := [] } }, by decide⟩, by decide⟩

/-- IdleStepAndDisposedStep: its three clauses. -/
theorem witness_IdleStepAndDisposedStep :
    (vec true).pending = [] ∧
    ({ calling true .reset with disposed := true } : State).pending = [.reset] ∧
    (calling false .dispose).pending = [.dispose] ∧ (calling false .dispose).disposed = false := by decide

/-- SendStatusReply. -/
theorem witness_SendStatusReply : (vec true).card.appCmd = false ∧ (vec false).card.appCmd = false := by decide

/-- SdStatusBindsRead, ScrBindsRead: the dispatched clause. -/
theorem witness_SdStatusBindsRead : (flagged true).card.appCmd = true := by decide

/-- TokenLatchesNumber: the least and the greatest token byte. -/
theorem witness_TokenLatchesNumber : (0x40 : Byte) &&& 0xC0 = 0x40 ∧ (0x7F : Byte) &&& 0xC0 = 0x40 := by decide

/-- MalformedTokenAnswer: the bytes at the ends of the two ranges. -/
theorem witness_MalformedTokenAnswer : ∀ x ∈ ([0x00, 0x3F, 0x80, 0xFE] : List Byte),
    (calling true (.transmit x)).pending = [.transmit x] ∧ (calling true (.transmit x)).disposed = false ∧
    (calling true (.transmit x)).params.spiMode = true ∧ (calling true (.transmit x)).spi.state = .waitingForCommand ∧
    (x.toNat < 0x40 ∨ (0x80 ≤ x.toNat ∧ x.toNat ≤ 0xFE)) := by decide

/-- FrameLatchesCommand: the framer's argument clause, before the first, the third and the fourth byte. -/
theorem witness_FrameLatchesCommand_byte : ∀ k ∈ ([0, 2, 3] : List (Fin 5)),
    SpiFrame.wf { state := .waitingForArgBytes, cmdNum := 16, arg := 0x00FF40, argCount := k, queue := [] } = true ∧
    (calling true (.transmit 0xFF)).pending = [.transmit 0xFF] ∧ (calling true (.transmit 0xFF)).disposed = false ∧
    (calling true (.transmit 0xFF)).params.spiMode = true := by decide

/-- FrameLatchesCommand: a whole frame. -/
theorem witness_FrameLatchesCommand : ∃ s : State, s.pending = (frame 16 0xFF40FF40 0x95).map .transmit ++ [.reset] ∧
    s.disposed = false ∧ s.params.spiMode = true ∧ s.spi.state = .waitingForCommand :=
  ⟨{ vec true with pending := (frame 16 0xFF40FF40 0x95).map .transmit ++ [.reset] }, by decide⟩

/-- CrcByteStartsResponse: V51's R2. -/
theorem witness_CrcByteStartsResponse : ∃ (s t : State) (r : BitStream) (q : Byte) (qs : List Byte),
    s.pending = [.transmit 0x95] ∧ s.disposed = false ∧ s.params.spiMode = true ∧ s.spi.state = .waitingForCRC ∧
    dispatch (s.spi.cmdNum.setWidth 32) s.spi.arg { s with pending := [] } = .next t ∧ t.ret = .stream r ∧
    bytes r = q :: qs :=
  ⟨{ calling true (.transmit 0x95) with
    spi := { state := .waitingForCRC, cmdNum := 13, arg := 0, argCount := 4, queue := [] } },
    _, _, _, _, rfl, rfl, rfl, rfl, rfl, rfl, rfl⟩

/-- ResponseDrains: one exchange, with a byte queued and with none. -/
theorem witness_ResponseDrains_byte : ∀ q ∈ ([[0xFE], []] : List (List Byte)), ∃ s : State, s.pending = [.transmit 0x51] ∧
    s.disposed = false ∧ s.params.spiMode = true ∧ s.spi.state = .sendingResponse ∧ s.spi.queue = q :=
  fun q _ => ⟨{ calling true (.transmit 0x51) with
    spi := { state := .sendingResponse, cmdNum := 17, arg := 0, argCount := 4, queue := q } }, rfl, rfl, rfl, rfl, rfl⟩

/-- ResponseDrains: two bytes queued. -/
theorem witness_ResponseDrains : ∃ s : State, s.pending = ([0xFF, 0x40, 0x51] : List Byte).map .transmit ++ [.reset] ∧
    s.disposed = false ∧ s.params.spiMode = true ∧ s.spi.state = .sendingResponse ∧
    ([0xFF, 0x40, 0x51] : List Byte).length = s.spi.queue.length + 1 :=
  ⟨{ vec true with
    pending := ([0xFF, 0x40, 0x51] : List Byte).map .transmit ++ [.reset]
    spi := { state := .sendingResponse, cmdNum := 17, arg := 0, argCount := 4, queue := [0xFE, 0x00] } }, by decide⟩

/-- FinishTransmissionResetsFrame, NativeTransmitIsContractFault and ResetPortClearsProtocolState. -/
theorem witness_ports :
    (calling true .finishTransmission).pending = [.finishTransmission] ∧ (calling true .finishTransmission).disposed = false ∧
    (calling false (.transmit 0x40)).pending = [.transmit 0x40] ∧ (calling false (.transmit 0x40)).disposed = false ∧
    (calling false (.transmit 0x40)).params.spiMode = false ∧
    (calling true .reset).pending = [.reset] ∧ (calling true .reset).disposed = false := by decide

/-- DispatchConsumesAppFlag: an application number with the flag, a standard one with it and without, an unknown one. -/
theorem witness_DispatchConsumesAppFlag :
    (applicationTable.map (·.1)).contains 13 = true ∧ (flagged true).card.appCmd = true ∧
    (standardTable.map (·.1)).contains 13 = true ∧ (vec true).card.appCmd = false ∧
    (standardTable.map (·.1)).contains 58 = true ∧ (58 : Word) ∉ applicationTable.map (·.1) ∧
    (59 : Word) ∉ standardTable.map (·.1) ∧ (59 : Word) ∉ applicationTable.map (·.1) := by decide

/-- UnrecognizedCommandAnswer: 41 without the flag, 25 with it, and the ends of the numbers no frame can carry. -/
theorem witness_UnrecognizedCommandAnswer :
    (41 : Word) ∉ standardTable.map (·.1) ∧ (vec true).card.appCmd = false ∧
    (∀ n ∈ ([25, 64, 0xFFFFFFFF] : List Word), n ∉ standardTable.map (·.1) ∧ n ∉ applicationTable.map (·.1)) := by
  simp [standardTable, applicationTable, vec]

/-- AppFlagIsOneShot: a dispatching step, a reset, and a step that is neither. -/
theorem witness_AppFlagIsOneShot :
    ((calling false (.handleCommand 55 0)).dispatched = some (55, 0) ∧
      ∃ t, step (calling false (.handleCommand 55 0)) = .next t) ∧
    ((calling false .reset).resetting = true ∧ ∃ t, step (calling false .reset) = .next t) ∧
    ((calling true (.transmit 0xFF)).dispatched = none ∧ (calling true (.transmit 0xFF)).resetting = false ∧
      ∃ t, step (calling true (.transmit 0xFF)) = .next t) :=
  ⟨⟨rfl, _, rfl⟩, ⟨rfl, _, rfl⟩, ⟨rfl, rfl, _, rfl⟩⟩

/-- A small card: one point of the deriver's space to search. -/
def smallParams : Params := { vecParams false with requestedCapacity := 1000, blMin := 0, blMax := 0 }

/-- A card is constructed: OnlyAcmd41EndsIdle, GeometryEncodesStoreLength, FreshCardState. -/
theorem witness_construct : ∃ s, construct smallParams [(0, 5), (0, 6), (1000, 7)] = .next s := by
  have hw : smallParams.wf = true := by decide
  have hc : deriveCapacity smallParams.requestedCapacity smallParams.blMin.val smallParams.blMax.val = some ⟨0, 249, 0⟩ := by
    decide
  exact ⟨_, by simp only [construct, hw, if_true, hc]; rfl⟩

/-- OnlyAcmd41EndsIdle: ACMD41, go-idle, the container's reset, and another command. -/
theorem witness_OnlyAcmd41EndsIdle :
    (∃ t, step { flagged false with pending := [.handleCommand 41 0] } = .next t ∧ t.card.isIdle = false) ∧
    (calling false (.handleCommand 0 0)).dispatched.map (·.1) = some 0 ∧ (calling true .reset).resetting = true ∧
    (calling false (.handleCommand 41 0)).card.appCmd = false :=
  ⟨⟨_, rfl, rfl⟩, rfl, rfl, rfl⟩

/-- CommandFrame: a command that answers, and the premises of each clause. -/
theorem witness_CommandFrame : (∃ t, exec (.cmd8 0) (vec false) = .next t) ∧
    (∀ a, Instr.cmd8 0 ≠ .cmd16 a) ∧ (∀ a, Instr.cmd8 0 ≠ .cmd0 a ∧ Instr.cmd8 0 ≠ .acmd41 a) ∧
    (∀ a, Instr.cmd8 0 ≠ .cmd0 a ∧ Instr.cmd8 0 ≠ .cmd55 a) ∧
    (∀ a, Instr.cmd8 0 ≠ .cmd0 a ∧ Instr.cmd8 0 ≠ .cmd12 a ∧ Instr.cmd8 0 ≠ .cmd17 a ∧ Instr.cmd8 0 ≠ .cmd18 a ∧
      Instr.cmd8 0 ≠ .acmd13 a ∧ Instr.cmd8 0 ≠ .acmd51 a) ∧
    (∀ a, Instr.cmd8 0 ≠ .cmd0 a ∧ Instr.cmd8 0 ≠ .cmd12 a ∧ Instr.cmd8 0 ≠ .cmd24 a) ∧ (∀ n, Instr.cmd8 0 ≠ .token n) := by
  refine ⟨⟨_, rfl⟩, ?_⟩
  simp

/-- ParametersNeverChange: a step that leaves the app flag as it was. -/
theorem witness_ParametersNeverChange : ∃ t, step (calling true (.transmit 0xFF)) = .next t ∧
    t.card.appCmd = (calling true (.transmit 0xFF)).card.appCmd := ⟨_, rfl, rfl⟩

/-- FaultRecordIsSticky: a recorded kind, and the reset that follows V90. -/
theorem witness_FaultRecordIsSticky : ({ calling false .reset with fault := ⟨true, false, false⟩ } : State).fault.has .spiDisabled = true ∧
    ∃ t, step { calling false .reset with fault := ⟨true, false, false⟩ } = .next t := ⟨rfl, _, rfl⟩

/-- OnlyWriteDataChangesStore: a step that changes byte 16. -/
theorem witness_OnlyWriteDataChangesStore : ∃ t, step { calling false (.writeData [0xA0]) with wr := .store 16 8 } = .next t ∧
    t.store.readByte 16 ≠ (vec false).store.readByte 16 := ⟨_, rfl, by decide⟩

/-- SpiDispatchNeverEmpty. -/
theorem witness_SpiDispatchNeverEmpty : (vec true).params.spiMode = true ∧ ∃ t, dispatch 25 0 (vec true) = .next t :=
  ⟨rfl, _, rfl⟩

/-- ReadDataRejected: V75 with nothing left, V76 with one byte too few. -/
theorem witness_ReadDataRejected : (vec false).rd.bytesLeft = 0 ∧
    ({ vec false with rd := .store 0 512 } : State).rd.bytesLeft < (513 : Word).toNat := by decide

/-- ReadDataFromRegister: the first byte, and the last seven, of V72's register. -/
theorem witness_ReadDataFromRegister :
    (IoCtx.override (bits (vecParams true).scr) 0 0).wf = true ∧ 0 < (IoCtx.override (bits (vecParams true).scr) 0 0).bytesLeft ∧
    (1 : Word).toNat ≤ (IoCtx.override (bits (vecParams true).scr) 0 0).bytesLeft ∧
    (IoCtx.override (bits (vecParams true).scr) 8 0).wf = true ∧
    (7 : Word).toNat = (IoCtx.override (bits (vecParams true).scr) 8 0).bytesLeft := by decide

/-- ReadDataFromStore: V77's 0 bytes and the whole count, inside the store, past its end, and past 2^32. -/
theorem witness_ReadDataFromStore : ({ vec false with rd := .store 0 512 } : State).rd = .store 0 512 ∧
    0 < (512 : Word).toNat ∧ (0 : Word).toNat ≤ (512 : Word).toNat ∧ (512 : Word).toNat ≤ (512 : Word).toNat ∧
    (vec false).storeLen < (0x1000001 : Word).toNat ∧
    2 ^ 32 < bigCard.storeLen ∧ 2 ^ 32 < (0xFFFFFFFF : Word).toNat + (2 : Word).toNat := by decide

/-- WriteDataStores: rejected for nothing left, rejected by one byte, accepted whole. -/
theorem witness_WriteDataStores : (vec false).store.wf = true ∧ (vec false).wr = .store 0 0 ∧ (0 : Word).toNat = 0 ∧
    (1 : Word).toNat < ([1, 2] : List Byte).length ∧ 0 < (2 : Word).toNat ∧ ([1, 2] : List Byte).length ≤ (2 : Word).toNat := by
  decide

/-- WriteThenReadBack: at the end of the store, and at 2^32 in a larger one. -/
theorem witness_WriteThenReadBack : (vec false).store.wf = true ∧ 16777214 + ([1, 2] : List Byte).length ≤ min (vec false).storeLen (2 ^ 32) ∧
    4294967294 + ([1, 2] : List Byte).length ≤ min bigCard.storeLen (2 ^ 32) := by
  decide

/-- SetReadLimitEffect: V88 and V87. -/
theorem witness_SetReadLimitEffect : (vec false).rd = .store 0 0 ∧
    ({ vec false with rd := .override (bits (vecParams true).scr) 0 0 } : State).rd = .override (bits (vecParams true).scr) 0 0 := by
  decide

/-- ComposerPlacesFragments: a register of the spec and V3's, the lowest and the highest bit, the first and the last
byte. -/
theorem witness_ComposerPlacesFragments :
    (∀ f ∈ cardStatusReg.frags, 1 ≤ f.w ∧ f.off + f.w ≤ cardStatusReg.width) ∧
    ¬(∀ f ∈ (Reg.mk 8 [⟨6, 4, .const 0⟩]).frags, 1 ≤ f.w ∧ f.off + f.w ≤ (Reg.mk 8 [⟨6, 4, .const 0⟩]).width) ∧
    0 < cardStatusReg.width ∧ 31 < cardStatusReg.width ∧ 0 < 64 ∧ 63 < 64 := by
  simp [cardStatusReg]

/-- ContextOperations: an unbound and a bound context. -/
theorem witness_ContextOperations : (IoCtx.store 0 7).boundTo = none ∧
    (IoCtx.override (bits (vecParams true).scr) 8 0).boundTo = some (bits (vecParams true).scr) := by decide

/-- AdvanceMovesCursor: exactly what is left, one more (V21, V22), and a bound context. -/
theorem witness_AdvanceMovesCursor : (IoCtx.store 0 512).wf = true ∧ 512 ≤ (IoCtx.store 0 512).bytesLeft ∧
    (IoCtx.store 0 512).bytesLeft < 513 ∧ (IoCtx.override (bits (vecParams true).scr) 8 0).wf = true ∧
    7 ≤ (IoCtx.override (bits (vecParams true).scr) 8 0).bytesLeft := by decide

/-- CapacityIsMinimal, CapacityTieBreak: a derived triple, another legal one of its length (V14), and none derived. -/
theorem witness_capacity : deriveCapacity 1000 0 1 = some ⟨0, 249, 0⟩ ∧ (Triple.mk 1 124 0).length = (Triple.mk 0 249 0).length ∧
    1000 ≤ (Triple.mk 0 249 0).length ∧ deriveCapacity 4194305 0 1 = none ∧ (Triple.mk 7 4095 1).length = 4194304 := by decide

/-- ConstructionFailsAboveMaximum: the greatest request that is met (X10), one more, no legal code, and parameters
outside their types. -/
theorem witness_ConstructionFailsAboveMaximum : (vecParams false).wf = true ∧ (vecParams false).blMin ≤ (vecParams false).blMax ∧
    ({ vecParams false with requestedCapacity := 68719476736 } : Params).requestedCapacity ≤ 2 ^ (21 + (vecParams false).blMax.val) ∧
    2 ^ (21 + (vecParams false).blMax.val) < ({ vecParams false with requestedCapacity := 68719476737 } : Params).requestedCapacity ∧
    (({ vecParams false with blMin := 1, blMax := 0 } : Params).wf = true ∧
      ({ vecParams false with blMin := 1, blMax := 0 } : Params).blMax < ({ vecParams false with blMin := 1, blMax := 0 } : Params).blMin) ∧
    ({ vecParams false with csdBase := BitVec.twoPow 128 47 } : Params).wf = false := by
  refine ⟨by decide, by decide, ?_, ?_, by decide, by decide⟩ <;> norm_num [vecParams]

end Sys2Proof.Tests
end

section
/-! SUPPORT. What a step does to the card runtime state and to what construction fixes: the parameters, the geometry and
the store length. Said once for every instruction and every port; the rules of 10_state.md about them follow. -/

namespace Sys2Proof.Machine

/-! ### The card state and the constants of a card -/

/-- The card runtime state, beside the fields that construction fixes (10_state.md R20, R35; 00_scope.md R9). -/
structure CardCore where
  params : Params
  card : Card
  geom : Geometry
  storeLen : Nat

/-- The card state and the constants that a state holds. -/
def State.core (s : State) : CardCore := ⟨s.params, s.card, s.geom, s.storeLen⟩

/-- The card state an instruction leaves, from the one its handler starts from: go-idle, the block length, the app-command
marker and ACMD41 write it (43_standard_commands.md R203, R210, R214; 44_app_commands.md R252). -/
def cardAfter : Instr → Card → Card
  | .cmd0 _, c => { c with appCmd := false, isIdle := true }
  | .cmd16 a, c => { c with blockLen := a }
  | .cmd55 _, c => { c with appCmd := true }
  | .acmd41 _, c => { c with isIdle := false }
  | .cmd2 _, c | .cmd3 _, c | .cmd7 _, c | .cmd8 _, c | .cmd9 _, c | .cmd12 _, c | .cmd13 _, c => c
  | .cmd17 _, c | .cmd18 _, c | .cmd24 _, c | .cmd58 _, c | .acmd13 _, c | .acmd51 _, c => c
  | .fill, c | .token _, c => c

/-- The card state a dispatch leaves: the app flag consumed, then the command's own writes (43_standard_commands.md
R200). -/
def Card.afterDispatch (c : Card) (n a : Word) : Card :=
  match decodeCommand c.appCmd n a with
  | .ok i => cardAfter i { c with appCmd := false }
  | .error _ => { c with appCmd := false }

/-- The card state the next step leaves: the container's reset and a dispatch write it, no other call does. -/
def State.nextCard (s : State) : Card :=
  if s.resetting then { s.card with appCmd := false, isIdle := true }
  else
    match s.dispatched with
    | some (n, a) => s.card.afterDispatch n a
    | none => s.card

/-! ### The shared operations and the ports -/

theorem respondBy_core (x : State → List Byte) (y : State → BitStream) (s : State) :
    (respondBy x y s).core = s.core := by
  rw [respondBy_eq]; rfl

/-- A native-only command keeps what its native effect keeps: where SPI mode rejects it, it only logs and answers. -/
theorem nativeOnly_core {f : State → State} {s : State} (h : (f s).core = s.core) : (nativeOnly f s).core = s.core := by
  unfold nativeOnly
  split
  · rfl
  · exact h

theorem unrecognized_core (s : State) : (unrecognized s).core = s.core := respondBy_core ..

theorem argumentByte_core (x : Byte) (s : State) : (argumentByte x s).core = s.core := by
  unfold argumentByte
  split <;> rfl

theorem startResponse_core (s : State) : (startResponse s).core = s.core := by
  unfold startResponse
  split <;> rfl

theorem sendByte_core (s : State) : (sendByte s).core = s.core := by
  unfold sendByte
  split <;> rfl

theorem readData_core (n : Word) (s : State) : (readData n s).core = s.core := by
  obtain ⟨-, h⟩ | ⟨-, -, c, -, h⟩ := readData_cases n s
  · rw [h]; rfl
  · rw [h, noteShortRead_eq]; rfl

theorem writeData_core (v : List Byte) (s : State) : (writeData v s).core = s.core := by
  obtain ⟨-, h⟩ | ⟨-, -, c, -, h⟩ := writeData_cases v s
  · rw [h]; rfl
  · rw [h, noteShortWrite_eq]; rfl

theorem setReadLimit_core (k : Word) (s : State) : (setReadLimit k s).core = s.core := by
  unfold setReadLimit
  cases s.rd <;> rfl

theorem readRegister_core {r : RegName} {s t : State} (h : readRegister r s = .next t) : t.core = s.core := by
  simp only [readRegister, Reg.read, registerOf_wf, if_true] at h
  cases h
  rfl

/-- A block read of SPI CMD17 from the armed context (43_standard_commands.md R211). -/
theorem readBlockInline_core {off : Word} {s : State} (h : s.rd = .store off s.card.blockLen) :
    (readBlockInline s).core = s.core := by
  rw [readBlockInline_eq off s h, noteShortRead_eq]; rfl

/-! ### Instructions, dispatch and the step -/

/-- CMD17 only arms the read context, and in SPI mode reads the block through it. -/
theorem execCmd17_core {a : Word} {s t : State} (h : execCmd17 a s = .next t) : t.core = s.core := by
  cases h
  split
  · exact readBlockInline_core rfl
  · rfl

/-- Every instruction leaves the constants, and the card state that `cardAfter` says. -/
theorem exec_core {i : Instr} {s t : State} (h : exec i s = .next t) :
    t.core = { s.core with card := cardAfter i s.card } := by
  cases i with
  | cmd17 a => exact execCmd17_core h
  | cmd2 | cmd3 | cmd7 | cmd18 | cmd24 => cases h; exact nativeOnly_core rfl
  | fill | token => cases h; rfl
  | cmd0 | cmd8 | cmd9 | cmd12 | cmd13 | cmd16 | cmd55 | cmd58 | acmd13 | acmd41 | acmd51 =>
    cases h; exact respondBy_core ..

theorem dispatch_core {n a : Word} {s t : State} (h : dispatch n a s = .next t) :
    t.core = { s.core with card := s.card.afterDispatch n a } := by
  obtain ⟨i, hi, h⟩ | ⟨⟨e, he⟩, rfl⟩ := dispatch_cases h
  · rw [exec_core h, Card.afterDispatch, hi]; rfl
  · rw [unrecognized_core, Card.afterDispatch, he]; rfl

/-- An exchange writes the card state only by the dispatch on the CRC byte (42_spi_framing.md R185). -/
theorem transmit_core {x : Byte} {s t : State} (h : transmit x s = .next t) :
    t.core = { s.core with card :=
      if s.params.spiMode && s.spi.state == .waitingForCRC then
        s.card.afterDispatch (s.spi.cmdNum.setWidth 32) s.spi.arg
      else s.card } := by
  obtain ⟨hm, rfl⟩ | ⟨hm, ⟨hs, h⟩ | ⟨hs, rfl⟩ | ⟨hs, u, hu, rfl⟩ | ⟨hs, rfl⟩⟩ := transmit_cases h
  · rw [if_neg (by simp [hm])]; rfl
  · rw [if_neg (by simp [hs])]
    obtain ⟨-, h⟩ | ⟨n, -, h⟩ | ⟨-, rfl⟩ := h
    · exact exec_core h
    · exact exec_core h
    · rfl
  · rw [if_neg (by simp [hs])]; exact argumentByte_core x s
  · rw [if_pos (by simp [hm, hs]), startResponse_core]; exact dispatch_core hu
  · rw [if_neg (by simp [hs])]; exact sendByte_core s

/-- A port call other than a dispatch, an exchange and the container's reset writes neither the card state nor a
constant. -/
theorem portCall_core_of_ne {c : PortCall} {s t : State} (h : portCall c s = .next t)
    (hn : ∀ n a, c ≠ .handleCommand n a) (hx : ∀ x, c ≠ .transmit x) (hr : c ≠ .reset) : t.core = s.core := by
  cases c with
  | handleCommand n a => exact absurd rfl (hn n a)
  | transmit x => exact absurd rfl (hx x)
  | reset => exact absurd rfl hr
  | readData n => cases h; exact readData_core n s
  | writeData v => cases h; exact writeData_core v s
  | setReadLimit k => cases h; exact setReadLimit_core k s
  | readRegister r => exact readRegister_core h
  | finishTransmission | dispose => cases h; rfl

/-- Every step leaves the constants, and the card state that `State.nextCard` says. -/
theorem step_core {s t : State} (h : step s = .next t) : t.core = { s.core with card := s.nextCard } := by
  obtain ⟨hp, rfl⟩ | ⟨c, rest, u, hp, -, hu, rfl⟩ := step_cases h
  · simp [State.nextCard, State.resetting, State.dispatched, hp, State.core]
  · change u.core = _
    simp only [State.nextCard, State.resetting, State.dispatched, hp]
    cases c with
    | handleCommand n a => exact dispatch_core (s := { s with pending := rest }) hu
    | transmit x =>
      refine (transmit_core (s := { s with pending := rest }) hu).trans ?_
      by_cases hc : (s.params.spiMode && s.spi.state == .waitingForCRC) = true <;> simp only [hc] <;> rfl
    | reset => cases hu; rfl
    | readData | writeData | setReadLimit | readRegister | finishTransmission | dispose =>
      exact portCall_core_of_ne (s := { s with pending := rest }) hu (by simp) (by simp) (by simp)

/-- A step writes the card state as `State.nextCard` says. -/
theorem step_card {s t : State} (h : step s = .next t) : t.card = s.nextCard := congrArg CardCore.card (step_core h)

/-! ### The idle flag (10_state.md R21) -/

/-- Every row of the application table is read as its command. -/
theorem decodeApp_row (a : Word) : ∀ e ∈ applicationTable, decodeApp e.1 a = .ok (e.2 a) := by
  simp [applicationTable, decodeApp]

/-- Every row of the standard table is read as its command. -/
theorem decodeStd_row (a : Word) : ∀ e ∈ standardTable, decodeStd e.1 a = .ok (e.2 a) := by
  simp [standardTable, decodeStd]

/-- What is read from the application table is one of its rows. -/
theorem decodeApp_ok {n a : Word} {i : Instr} (h : decodeApp n a = .ok i) :
    ∃ e ∈ applicationTable, e.1 = n ∧ e.2 a = i := by
  by_cases hn : n ∈ applicationTable.map (·.1)
  · obtain ⟨e, he, rfl⟩ := List.mem_map.mp hn
    exact ⟨e, he, rfl, Except.ok.inj ((decodeApp_row a e he).symm.trans h)⟩
  · rw [decodeApp_error a hn] at h
    cases h

/-- What is read from the standard table is one of its rows. -/
theorem decodeStd_ok {n a : Word} {i : Instr} (h : decodeStd n a = .ok i) :
    ∃ e ∈ standardTable, e.1 = n ∧ e.2 a = i := by
  by_cases hn : n ∈ standardTable.map (·.1)
  · obtain ⟨e, he, rfl⟩ := List.mem_map.mp hn
    exact ⟨e, he, rfl, Except.ok.inj ((decodeStd_row a e he).symm.trans h)⟩
  · rw [decodeStd_error a hn] at h
    cases h

/-- What a number is read as stands in the application table, with the app flag set, or in the standard one
(30_encoding.md R87). -/
theorem decodeCommand_ok {app : Bool} {n a : Word} {i : Instr} (h : decodeCommand app n a = .ok i) :
    (app = true ∧ ∃ e ∈ applicationTable, e.1 = n ∧ e.2 a = i) ∨ ∃ e ∈ standardTable, e.1 = n ∧ e.2 a = i := by
  unfold decodeCommand at h
  split at h
  · rename_i happ
    split at h
    · rename_i j hj
      exact .inl ⟨happ, decodeApp_ok (hj.trans h)⟩
    · exact .inr (decodeStd_ok h)
  · exact .inr (decodeStd_ok h)

/-- Number 0 is go-idle whatever the app flag. -/
theorem decodeCommand_zero (app : Bool) (a : Word) : decodeCommand app 0 a = .ok (.cmd0 a) := by
  cases app <;> rfl

/-- Only the standard table's row 0 gives go-idle. -/
theorem row_eq_cmd0 {a b : Word} :
    (∀ e ∈ standardTable, e.2 a = .cmd0 b → e.1 = 0) ∧ ∀ e ∈ applicationTable, e.2 a ≠ .cmd0 b := by
  simp [standardTable, applicationTable]

/-- Only the application table's row 41 gives ACMD41. -/
theorem row_eq_acmd41 {a b : Word} :
    (∀ e ∈ applicationTable, e.2 a = .acmd41 b → e.1 = 41) ∧ ∀ e ∈ standardTable, e.2 a ≠ .acmd41 b := by
  simp [standardTable, applicationTable]

/-- Only number 0 stands for go-idle. -/
theorem decodeCommand_cmd0 {app : Bool} {n a b : Word} (h : decodeCommand app n a = .ok (.cmd0 b)) : n = 0 := by
  obtain ⟨-, e, he, rfl, hi⟩ | ⟨e, he, rfl, hi⟩ := decodeCommand_ok h
  · exact absurd hi (row_eq_cmd0.2 e he)
  · exact row_eq_cmd0.1 e he hi

/-- Only number 41 with the app flag set stands for ACMD41. -/
theorem decodeCommand_acmd41 {app : Bool} {n a b : Word} (h : decodeCommand app n a = .ok (.acmd41 b)) :
    app = true ∧ n = 41 := by
  obtain ⟨happ, e, he, rfl, hi⟩ | ⟨e, he, rfl, hi⟩ := decodeCommand_ok h
  · exact ⟨happ, row_eq_acmd41.1 e he hi⟩
  · exact absurd hi (row_eq_acmd41.2 e he)

/-- Every instruction but go-idle and ACMD41 keeps the idle flag. -/
theorem cardAfter_isIdle_of_ne {i : Instr} (c : Card) (h0 : ∀ a, i ≠ .cmd0 a) (h41 : ∀ a, i ≠ .acmd41 a) :
    (cardAfter i c).isIdle = c.isIdle := by
  cases i with
  | cmd0 a => exact absurd rfl (h0 a)
  | acmd41 a => exact absurd rfl (h41 a)
  | _ => rfl

/-- A dispatch sets the idle flag for number 0, clears it for ACMD41, and keeps it otherwise. -/
theorem Card.afterDispatch_isIdle (c : Card) (n a : Word) :
    (c.afterDispatch n a).isIdle =
      if n = 0 then true else if c.appCmd = true ∧ n = 41 then false else c.isIdle := by
  unfold Card.afterDispatch
  split_ifs with h0 h41
  · rw [h0, decodeCommand_zero]; rfl
  · rw [h41.1, h41.2]; rfl
  · split
    · rename_i i hi
      exact cardAfter_isIdle_of_ne _ (fun b hb => h0 (decodeCommand_cmd0 (hb ▸ hi)))
        (fun b hb => h41 (decodeCommand_acmd41 (hb ▸ hi)))
    · rfl

/-- The idle flag a step leaves. -/
theorem State.nextCard_isIdle (s : State) :
    s.nextCard.isIdle =
      if s.resetting = true ∨ s.dispatched.map (·.1) = some 0 then true
      else if s.card.appCmd = true ∧ s.dispatched.map (·.1) = some 41 then false
      else s.card.isIdle := by
  unfold State.nextCard
  by_cases hr : s.resetting = true
  · simp [hr]
  · cases hd : s.dispatched with
    | none => simp [hr]
    | some na => simp [hr, Card.afterDispatch_isIdle]

/-- Bit 0 of R1 is the idle flag (30_encoding.md R94). -/
theorem r1_getLsbD_zero (ill : Bool) (s : State) : (r1 ill s).getLsbD 0 = s.card.isIdle := by
  unfold r1
  cases ill <;> cases s.card.isIdle <;> rfl

/-- Settles O35: the card state after a step is `State.nextCard`, whose idle flag only go-idle, ACMD41 and `reset` write;
R1 carries the flag at bit 0 and depends on nothing else of the card. -/
theorem onlyAcmd41EndsIdle : Obligations.OnlyAcmd41EndsIdle := by
  refine ⟨fun p init s h => ?_, fun s t h => ?_, fun ill s t => ⟨fun h => ?_, fun h => r1_congr ill h⟩⟩
  · obtain ⟨-, _, -, rfl⟩ := construct_cases h
    rfl
  · rw [step_card h, State.nextCard_isIdle]
  · rw [← r1_getLsbD_zero ill s, h, r1_getLsbD_zero]

/-! ### The geometry and the store length (10_state.md R35) -/

/-- The derived triple is one of the candidates. -/
theorem deriveCapacity_mem {r lo hi : Nat} {t : Triple} (h : deriveCapacity r lo hi = some t) :
    t ∈ candidates r lo hi := by
  unfold deriveCapacity at h
  split at h
  · cases h
  · rename_i u us hc
    cases h
    exact hc ▸ firstShortest_mem us u

/-- The derived triple lies in the search space (40_register_composer.md R140). -/
theorem deriveCapacity_bounds {r lo hi : Nat} {t : Triple} (h : deriveCapacity r lo hi = some t) :
    t.m < 8 ∧ t.d < 4096 ∧ t.b ≤ hi := by
  obtain ⟨b, m, -, hb, hm, ht⟩ := mem_candidates.mp (deriveCapacity_mem h)
  obtain ⟨rfl, rfl, hd, -⟩ := smallestTriple_some ht
  exact ⟨hm, hd, hb⟩

/-- The geometry's fields hold a triple of the search space whole. -/
theorem geometryOf_toNat {t : Triple} (hm : t.m < 8) (hd : t.d < 4096) (hb : t.b < 16) :
    (geometryOf t).m.toNat = t.m ∧ (geometryOf t).d.toNat = t.d ∧ (geometryOf t).b.toNat = t.b := by
  simp only [geometryOf, BitVec.toNat_ofNat]
  exact ⟨Nat.mod_eq_of_lt hm, Nat.mod_eq_of_lt hd, Nat.mod_eq_of_lt hb⟩

/-- Settles O37: the derived triple fits the geometry's fields, so they encode the store length, and every step keeps both
by `step_core`. -/
theorem geometryEncodesStoreLength : Obligations.GeometryEncodesStoreLength := by
  refine ⟨fun p init s h => ?_, fun s t h => ?_⟩
  · obtain ⟨-, t, ht, rfl⟩ := construct_cases h
    obtain ⟨hm, hd, hb⟩ := deriveCapacity_bounds ht
    obtain ⟨gm, gd, gb⟩ := geometryOf_toNat hm hd (hb.trans_lt p.blMax.isLt)
    refine ⟨?_, t, ht, gm, gd, gb, rfl⟩
    simp only [freshCard, Geometry.length, Triple.length, gm, gd, gb]
  · have hc := step_core h
    exact ⟨congrArg CardCore.geom hc, congrArg CardCore.storeLen hc⟩

end Sys2Proof.Machine
end

section
/-! SUPPORT. The capacity deriver (40_register_composer.md R140 to R144): what it derives is the least legal length that
meets the request, and it derives nothing exactly for a request above the largest legal length. -/

namespace Sys2Proof.Machine

/-- The length grows with the multiplier, the device size and the code. -/
theorem Triple.length_mono {t u : Triple} (hm : t.m ≤ u.m) (hd : t.d ≤ u.d) (hb : t.b ≤ u.b) :
    t.length ≤ u.length := by
  unfold Triple.length
  gcongr <;> decide

/-- No triple of the search space is longer than the one of largest multiplier, device size and code
(40_register_composer.md R142). -/
theorem Triple.length_le_max {hi : Nat} {t : Triple} (hm : t.m < 8) (hd : t.d < 4096) (hb : t.b ≤ hi) :
    t.length ≤ (Triple.mk 7 4095 hi).length :=
  Triple.length_mono (Nat.le_of_lt_succ hm) (Nat.le_of_lt_succ hd) hb

/-- No candidate is shorter than the chosen one. -/
theorem firstShortest_length_le :
    ∀ (ts : List Triple) (t : Triple), ∀ u ∈ t :: ts, (firstShortest t ts).length ≤ u.length
  | [], t, u, hu => by
    rw [List.mem_singleton.mp hu]; rfl
  | x :: xs, t, u, hu => by
    have ih := firstShortest_length_le xs (if x.length < t.length then x else t)
    have hbest := ih _ List.mem_cons_self
    simp only [firstShortest]
    obtain rfl | rfl | hxs : u = t ∨ u = x ∨ u ∈ xs := by simpa using hu
    · exact hbest.trans (by split_ifs <;> omega)
    · exact hbest.trans (by split_ifs <;> omega)
    · exact ih u (List.mem_cons_of_mem _ hxs)

/-- The derived triple is no longer than any candidate. -/
theorem deriveCapacity_length_le {r lo hi : Nat} {t u : Triple} (h : deriveCapacity r lo hi = some t)
    (hu : u ∈ candidates r lo hi) : t.length ≤ u.length := by
  unfold deriveCapacity at h
  split at h
  · cases h
  · rename_i x xs hc
    cases h
    exact firstShortest_length_le xs x u (hc ▸ hu)

/-- A candidate lies in the search space and meets the request. -/
theorem candidate_legal {r lo hi : Nat} {t : Triple} (h : t ∈ candidates r lo hi) :
    (t.m < 8 ∧ t.d < 4096 ∧ lo ≤ t.b ∧ t.b ≤ hi) ∧ r ≤ t.length := by
  obtain ⟨b, m, hlo, hhi, hm, ht⟩ := mem_candidates.mp h
  obtain ⟨rfl, rfl, hd, hr, -⟩ := smallestTriple_some ht
  exact ⟨⟨hm, hd, hlo, hhi⟩, hr⟩

/-- A triple of the search space that meets the request is at least as long as some candidate: the one of its own
multiplier and code (40_register_composer.md R141). -/
theorem exists_candidate_length_le {r lo hi : Nat} {u : Triple} (hm : u.m < 8) (hd : u.d < 4096) (hlo : lo ≤ u.b)
    (hhi : u.b ≤ hi) (hr : r ≤ u.length) : ∃ v ∈ candidates r lo hi, v.length ≤ u.length := by
  cases hv : smallestTriple r u.m u.b with
  | none => exact absurd (smallestTriple_none hv u.d hd) (Nat.not_lt.mpr hr)
  | some v =>
    obtain ⟨hvm, hvb, -, -, hle⟩ := smallestTriple_some hv
    exact ⟨v, mem_candidates.mpr ⟨u.b, u.m, hlo, hhi, hm, hv⟩, Triple.length_mono hvm.le (hle u.d hr) hvb.le⟩

/-- There is no candidate exactly where the request is above the largest length. -/
theorem candidates_eq_nil {r lo hi : Nat} (h : lo ≤ hi) :
    candidates r lo hi = [] ↔ (Triple.mk 7 4095 hi).length < r := by
  rw [List.eq_nil_iff_forall_not_mem]
  constructor
  · intro hnone
    by_contra hr
    obtain ⟨v, hv, -⟩ := exists_candidate_length_le (u := ⟨7, 4095, hi⟩) (by norm_num) (by norm_num) h le_rfl
      (Nat.not_lt.mp hr)
    exact hnone v hv
  · intro hr t ht
    obtain ⟨⟨hm, hd, -, hb⟩, hle⟩ := candidate_legal ht
    exact absurd (hle.trans (Triple.length_le_max hm hd hb)) (Nat.not_le.mpr hr)

/-- Settles O54: the derived triple is a candidate, so legal and long enough; no legal triple that meets the request
is shorter, since a candidate lies below it; none is derived exactly where there is no candidate. -/
theorem capacityIsMinimal : Obligations.CapacityIsMinimal := by
  intro r lo hi hlohi
  refine ⟨fun t ht => ?_, deriveCapacity_eq_none.trans (candidates_eq_nil hlohi)⟩
  obtain ⟨hlegal, hr⟩ := candidate_legal (deriveCapacity_mem ht)
  refine ⟨hlegal, hr, fun u hm hd hlo hhi hu => ?_⟩
  obtain ⟨v, hv, hvu⟩ := exists_candidate_length_le hm hd hlo hhi hu
  exact (deriveCapacity_length_le ht hv).trans hvu

end Sys2Proof.Machine
end

section
/-! SUPPORT. What the queries and the cursor write of an I/O context do (41_io_context.md R160 to R164, R167). -/

namespace Sys2Proof.Machine

@[simp] theorem IoCtx.setOffset_offset (c : IoCtx) (o : Word) : (c.setOffset o).offset = o := rfl

@[simp] theorem IoCtx.setOffset_boundTo (c : IoCtx) (o : Word) : (c.setOffset o).boundTo = none := rfl

@[simp] theorem IoCtx.setOffset_counter (c : IoCtx) (o : Word) : (c.setOffset o).counter = c.counter := rfl

/-- A store-bound context has the counter's bytes left (R162). -/
theorem IoCtx.bytesLeft_of_unbound {c : IoCtx} (h : c.boundTo = none) : c.bytesLeft = c.counter.toNat := by
  cases c with
  | store o k => rfl
  | override d p k => cases h

/-- A bound context has the whole bytes past its cursor left, whatever the saved counter (R162). -/
theorem IoCtx.bytesLeft_of_bound {c : IoCtx} {d : BitStream} (h : c.boundTo = some d) :
    c.bytesLeft = (d.length - c.offset.toNat) / 8 := by
  cases c with
  | store o k => cases h
  | override d' p k => cases h; rfl

@[simp] theorem IoCtx.isActive_iff (c : IoCtx) : c.isActive = true ↔ 0 < c.bytesLeft := decide_eq_true_iff

@[simp] theorem IoCtx.canAccept_iff (c : IoCtx) (n : Nat) : c.canAccept n = true ↔ n ≤ c.bytesLeft :=
  decide_eq_true_iff

@[simp] theorem IoCtx.resetCtx_eq (c : IoCtx) : c.resetCtx = .store 0 0 := rfl

/-- Settles O52: one lemma per operation; only the bytes left depend on the binding. -/
theorem contextOperations : Obligations.ContextOperations := fun c =>
  ⟨fun o => ⟨c.setOffset_offset o, c.setOffset_boundTo o, c.setOffset_counter o⟩, IoCtx.bytesLeft_of_unbound,
    fun _ => IoCtx.bytesLeft_of_bound, c.isActive_iff, c.canAccept_iff, c.resetCtx_eq⟩

end Sys2Proof.Machine
end

section
/-! SUPPORT. The framer's exchange on the CRC byte (42_spi_framing.md R185): the dispatch of the latched command and the
start of its response. -/

namespace Sys2Proof.Machine

/-- The response bytes of a dispatch that answered with a stream are the stream's. -/
theorem responseBytes_of_stream {s : State} {r : BitStream} (h : s.ret = .stream r) : responseBytes s = bytes r := by
  simp only [responseBytes, h]

/-- A response that is not empty is started by its first byte, the rest queued over the frame the command left. -/
theorem startResponse_of_cons {s : State} {q : Byte} {qs : List Byte} (h : responseBytes s = q :: qs) :
    startResponse s = respondByte q { s with spi := { s.spi with queue := qs, state := .sendingResponse } } := by
  simp only [startResponse, h]

/-- A framer that waits for the CRC dispatches the latched command, whatever byte is sent, and starts its response. -/
theorem transmit_of_waitingForCRC {s : State} (x : Byte) (hm : s.params.spiMode = true)
    (hs : s.spi.state = .waitingForCRC) :
    transmit x s = onNext (dispatch (s.spi.cmdNum.setWidth 32) s.spi.arg s) startResponse := by
  simp only [transmit, hm, hs, if_true]

/-- Settles O28: the exchange dispatches without looking at the CRC byte, and the response's first byte is what the step
hands on. -/
theorem crcByteStartsResponse : Obligations.CrcByteStartsResponse := by
  intro x s t rest r q qs hp hd hm hs ht hr hb
  have hq : responseBytes t = q :: qs := (responseBytes_of_stream hr).trans hb
  have hx : transmit x { s with pending := rest } = .next (startResponse t) := by
    rw [transmit_of_waitingForCRC (s := { s with pending := rest }) x hm hs, ht, onNext_next]
  calc step s = onNext (transmit x { s with pending := rest }) deliver := step_call hp hd
    _ = .next (deliver (startResponse t)) := by rw [hx, onNext_next]
    _ = _ := by rw [startResponse_of_cons hq]; rfl

end Sys2Proof.Machine
end

section
/-! SUPPORT. What the dispatcher makes of a number (43_standard_commands.md R200, R217): which table it is read from under
the app flag, the state its handler starts from, and the answer to a number that no applicable table holds. -/

namespace Sys2Proof.Machine

/-! ### The tables under the app flag -/

/-- With the app flag set, a row of the application table is read as its command, before the standard table is tried. -/
theorem decodeCommand_app_row (a : Word) {e : Word × (Word → Instr)} (he : e ∈ applicationTable) :
    decodeCommand true e.1 a = .ok (e.2 a) := by
  simp only [decodeCommand, if_true, decodeApp_row a e he]

/-- A number is read from the standard table alone when the flag is clear or the application table does not hold it. -/
theorem decodeCommand_eq_decodeStd {app : Bool} {n : Word} (a : Word)
    (h : app = true → n ∉ applicationTable.map (·.1)) : decodeCommand app n a = decodeStd n a := by
  cases app with
  | false => rfl
  | true => simp only [decodeCommand, if_true, decodeApp_error a (h rfl)]

/-! ### The dispatch -/

theorem dispatch_of_ok {n a : Word} {s : State} {i : Instr} (h : decodeCommand s.card.appCmd n a = .ok i) :
    dispatch n a s = exec i (s.afterConsume n) := by
  simp only [dispatch, h, consumeAppFlag_eq]

theorem dispatch_of_error {n a : Word} {s : State} {e : DecodeError}
    (h : decodeCommand s.card.appCmd n a = .error e) : dispatch n a s = .next (unrecognized (s.afterConsume n)) := by
  simp only [dispatch, h, consumeAppFlag_eq]

/-- With the app flag set, a row of the application table runs. -/
theorem dispatch_app_row {s : State} (a : Word) {e : Word × (Word → Instr)} (he : e ∈ applicationTable)
    (hs : s.card.appCmd = true) : dispatch e.1 a s = exec (e.2 a) (s.afterConsume e.1) :=
  dispatch_of_ok (hs ▸ decodeCommand_app_row a he)

/-- A row of the standard table runs, unless the flag is set and the application table holds its number. -/
theorem dispatch_std_row {s : State} (a : Word) {e : Word × (Word → Instr)} (he : e ∈ standardTable)
    (hn : s.card.appCmd = true → e.1 ∉ applicationTable.map (·.1)) :
    dispatch e.1 a s = exec (e.2 a) (s.afterConsume e.1) :=
  dispatch_of_ok ((decodeCommand_eq_decodeStd a hn).trans (decodeStd_row a e he))

/-- A number in no table that applies is answered as unrecognized. -/
theorem dispatch_unrecognized {n : Word} {s : State} (a : Word) (hn : n ∉ standardTable.map (·.1))
    (ha : s.card.appCmd = true → n ∉ applicationTable.map (·.1)) :
    dispatch n a s = .next (unrecognized (s.afterConsume n)) :=
  dispatch_of_error ((decodeCommand_eq_decodeStd a ha).trans (decodeStd_error a hn))

/-- Settles O32: the three clauses are the three ways a number is read under the flag as it stood on arrival. -/
theorem dispatchConsumesAppFlag : Obligations.DispatchConsumesAppFlag := by
  refine fun n a s => ⟨?_, ?_, dispatch_unrecognized a⟩
  · rintro e he rfl hs
    exact dispatch_app_row a he hs
  · rintro e he rfl hn
    exact dispatch_std_row a he hn

/-! ### The state after the flag is consumed -/

/-- With the flag clear on arrival there is nothing to consume and nothing to note. -/
theorem State.afterConsume_of_clear {s : State} (n : Word) (h : s.card.appCmd = false) : s.afterConsume n = s := by
  have hc : ({ s.card with appCmd := false } : Card) = s.card := by rw [← h]
  simp only [State.afterConsume, hc, h, Bool.false_eq_true, false_and, if_false]

/-- Where the application table does not apply to the number, a debug event is noted exactly when the flag was set. -/
theorem State.afterConsume_log {s : State} {n : Word} (h : s.card.appCmd = true → n ∉ applicationTable.map (·.1)) :
    (s.afterConsume n).log = s.log ++ if s.card.appCmd then [⟨.debug, .notAppCommand⟩] else [] := by
  cases hc : s.card.appCmd with
  | false => simp [State.afterConsume, hc]
  | true => simp only [State.afterConsume, hc, h hc, not_false_eq_true, and_self, if_true]

/-- An unrecognized command warns and answers, and writes nothing else (R217). -/
theorem unrecognized_eq (s : State) :
    unrecognized s = { s with
      log := s.log ++ [⟨.warning, .unknownCommand⟩]
      ret := .stream (if s.params.spiMode then ofBytes [r1 true s] else []) } :=
  respondBy_eq (r1Frame true) (fun _ => []) (logEvent .warning .unknownCommand s)

/-- Settles O33: no applicable table holds the number, so the warning follows what consuming the flag noted. -/
theorem unrecognizedCommandAnswer : Obligations.UnrecognizedCommandAnswer := by
  intro n a s hn ha
  rw [dispatch_unrecognized a hn ha, unrecognized_eq, State.afterConsume_log ha]
  rfl

end Sys2Proof.Machine
end

section
/-! SUPPORT. The answers of the standard commands that move no data (43_standard_commands.md R206 to R210, R214 to R216):
each is `spi?` of two response shapes on the state the command's effect leaves. -/

namespace Sys2Proof.Machine

/-- Bit 5 of the card status is the app flag (40_register_composer.md R130). -/
theorem cardStatus_getLsbD_five (s : State) : (cardStatus s).getLsbD 5 = s.card.appCmd := by
  simp only [cardStatus, cardStatusReg, Reg.value, List.foldl, Fragment.place, Source.eval]
  cases s.card.appCmd <;> rfl

theorem nativeOnly_native {s : State} (f : State → State) (h : s.params.spiMode = false) : nativeOnly f s = f s := by
  simp only [nativeOnly, h, Bool.false_eq_true, if_false]

theorem nativeOnly_spi {s : State} (f : State → State) (h : s.params.spiMode = true) :
    nativeOnly f s = unsupportedSpi s := by
  simp only [nativeOnly, h, if_true]

/-- A read from a context with nothing left is rejected, whatever its length (45_data_transfer.md R270). -/
theorem readData_of_bytesLeft_zero (n : Word) {s : State} (h : s.rd.bytesLeft = 0) :
    readData n s = respond (.bytes []) (logEvent .warning .readRejected s) := by
  obtain ⟨-, hr⟩ | ⟨hpos, -⟩ := readData_cases n s
  · exact hr
  · omega

/-- Settles O9: CMD7 is native only, and its native effect only answers. -/
theorem selectDeselectReply : Obligations.SelectDeselectReply := fun _ _ =>
  ⟨fun h => congrArg Host.Outcome.next (nativeOnly_native _ h),
    fun h => congrArg Host.Outcome.next (nativeOnly_spi _ h)⟩

/-- Settles O10: CMD8 only answers, by `spi?`. -/
theorem sendInterfaceConditionReply : Obligations.SendInterfaceConditionReply := fun _ s =>
  congrArg Host.Outcome.next (respondBy_eq r7Frame statusStream s)

/-- Settles O11: CMD9 only answers, by `spi?`. -/
theorem sendCsdReply : Obligations.SendCsdReply := fun _ s =>
  congrArg Host.Outcome.next (respondBy_eq (r1Frame false) (fun t => bits (csd t)) s)

/-- Settles O12: a reset context has no bytes left, so the read that follows is rejected. -/
theorem stopTransmissionResetsContexts : Obligations.StopTransmissionResetsContexts := fun _ s =>
  ⟨_, congrArg Host.Outcome.next
      (respondBy_eq (r1Frame false) statusStream { s with rd := s.rd.resetCtx, wr := s.wr.resetCtx }),
    rfl, readData_of_bytesLeft_zero 1 rfl⟩

/-- Settles O13: with the flag clear, number 13 is the standard table's row and starts from the state as it is. -/
theorem sendStatusReply : Obligations.SendStatusReply := by
  intro a s h
  have hrow : ((13 : Word), Instr.cmd13) ∈ standardTable := by simp [standardTable]
  refine ⟨?_, congrArg Host.Outcome.next (respondBy_eq r2Frame statusStream s), ?_⟩
  · calc dispatch 13 a s = exec (.cmd13 a) (s.afterConsume 13) := dispatch_std_row a hrow (by simp [h])
      _ = exec (.cmd13 a) s := by rw [State.afterConsume_of_clear 13 h]
  · rw [cardStatus_getLsbD_five, h]

/-- Settles O14: CMD16 answers, by `spi?`, from the state with the new block length, on which neither answer depends. -/
theorem setBlockLengthStoresArgument : Obligations.SetBlockLengthStoresArgument := fun a s =>
  congrArg Host.Outcome.next
    (respondBy_eq (r1Frame false) statusStream { s with card := { s.card with blockLen := a } })

/-- Settles O19: CMD55 answers, by `spi?`, from the state with the flag set, which bit 5 of the status shows. -/
theorem appCommandMarkerSetsFlag : Obligations.AppCommandMarkerSetsFlag := fun _ s =>
  ⟨_, congrArg Host.Outcome.next (respondBy_eq (r1Frame false) statusStream (setAppFlag s)), rfl,
    cardStatus_getLsbD_five _⟩

/-- Settles O20: CMD58 only answers, by `spi?`. -/
theorem readOcrReply : Obligations.ReadOcrReply := fun _ s =>
  congrArg Host.Outcome.next (respondBy_eq r3Frame (fun _ => []) s)

end Sys2Proof.Machine
end

section
/-! SUPPORT. The application commands that bind a register to the read context (44_app_commands.md R251, R255): the
binding, reading the register whole, and the dispatch that reaches the command. -/

namespace Sys2Proof.Machine

/-! ### A bound stream and the reads from it -/

/-- A stream just bound has all its whole bytes left, whatever the context held (41_io_context.md R161, R162). -/
@[simp] theorem IoCtx.bindOverrideData_bytesLeft (c : IoCtx) (d : BitStream) :
    (c.bindOverrideData d).bytesLeft = d.length / 8 := rfl

/-- A stream of whole bytes that is no longer than the longest register is bound well-formed (41_io_context.md R168). -/
theorem IoCtx.bindOverrideData_wf (c : IoCtx) {d : BitStream} (h8 : d.length % 8 = 0) (hle : d.length ≤ 512) :
    (c.bindOverrideData d).wf = true := by
  simp [IoCtx.bindOverrideData, IoCtx.wf, h8, hle]

/-- `advance` on a well-formed context takes the count from the bytes left (41_io_context.md R165). -/
theorem IoCtx.advance_bytesLeft {c c' : IoCtx} {n : Nat} (hw : c.wf = true) (h : c.advance n = .ok c') :
    c'.bytesLeft = c.bytesLeft - n := by
  have hn : n ≤ c.bytesLeft := by
    by_contra hlt
    rw [IoCtx.advance_error c n (by omega)] at h
    cases h
  rw [IoCtx.advance_ok c n hn] at h
  cases h
  cases c with
  | store o k =>
    have hk : n ≤ k.toNat := hn
    change (k - BitVec.ofNat 32 n).toNat = k.toNat - n
    rw [BitVec.toNat_sub, BitVec.toNat_ofNat]
    omega
  | override d p k =>
    have hp := IoCtx.override_advance_toNat d p k n hw hn
    change (d.length - (p + BitVec.ofNat 32 (8 * n)).toNat) / 8 = (d.length - p.toNat) / 8 - n
    omega

/-- A read that the guard accepts returns the transfer's bytes and advances the context (45_data_transfer.md R270). -/
theorem readData_of_le {n : Word} {s : State} (hpos : 0 < s.rd.bytesLeft) (hn : n.toNat ≤ s.rd.bytesLeft) :
    s.rd.advance n.toNat = .ok (readData n s).rd ∧
      (readData n s).ret = .bytes (transferBytes s.rd n.toNat s) := by
  obtain ⟨hno, -⟩ | ⟨-, -, c, hc, hr⟩ := readData_cases n s
  · omega
  · rw [hr]
    exact ⟨hc, rfl⟩

/-- A read of a whole bound stream returns all its bytes and leaves nothing (45_data_transfer.md R271). -/
theorem readData_of_bindOverrideData {n : Word} {s : State} {c : IoCtx} {d : BitStream}
    (hs : s.rd = c.bindOverrideData d) (hd : d.length = 8 * n.toNat) (hpos : 0 < n.toNat) (hle : d.length ≤ 512) :
    (readData n s).ret = .bytes (bytes d) ∧ (readData n s).rd.bytesLeft = 0 := by
  have hleft : s.rd.bytesLeft = n.toNat := by
    rw [hs, IoCtx.bindOverrideData_bytesLeft, hd]
    omega
  have hwf : s.rd.wf = true := hs ▸ c.bindOverrideData_wf (by omega) hle
  have hall : transferBytes s.rd n.toNat s = bytes d := by
    rw [hs]
    exact List.take_of_length_le (bytes_length n.toNat d hd).le
  obtain ⟨hadv, hret⟩ := readData_of_le (n := n) (by omega) hleft.ge
  exact ⟨hall ▸ hret, by rw [IoCtx.advance_bytesLeft hwf hadv, hleft, Nat.sub_self]⟩

/-! ### The dispatched command -/

/-- The status a dispatched command answers with shows the app flag consumed (43_standard_commands.md R200). -/
theorem cardStatus_afterConsume_getLsbD_five (s : State) (n : Word) :
    (cardStatus (s.afterConsume n)).getLsbD 5 = false := cardStatus_getLsbD_five _

/-- Settles O21: ACMD13 answers, by `spi?`, from the state with the register bound; the flag set on arrival selects its
row of the application table. -/
theorem sdStatusBindsRead : Obligations.SdStatusBindsRead := by
  intro a s
  have hleft : (s.rd.bindOverrideData (bits (sdStatus s))).bytesLeft = 64 := by
    rw [IoCtx.bindOverrideData_bytesLeft, bits_length]
  have hrow : ((13 : Word), Instr.acmd13) ∈ applicationTable := by simp [applicationTable]
  exact ⟨⟨_, congrArg Host.Outcome.next (respondBy_eq r2Frame statusStream
      { s with rd := s.rd.bindOverrideData (bits (sdStatus s)) }), rfl, hleft⟩,
    fun h => ⟨dispatch_app_row a hrow h, cardStatus_afterConsume_getLsbD_five s 13⟩⟩

/-- Settles O23: ACMD51 answers, by `spi?`, from the state with the register bound; its eight bytes are all that is left,
so reading them returns the register and leaves nothing for a ninth. -/
theorem scrBindsRead : Obligations.ScrBindsRead := by
  intro a s
  have hlen : (bits (scr s)).length = 64 := bits_length _
  have hleft : (s.rd.bindOverrideData (bits (scr s))).bytesLeft = 8 := by
    rw [IoCtx.bindOverrideData_bytesLeft, hlen]
  have hrow : ((51 : Word), Instr.acmd51) ∈ applicationTable := by simp [applicationTable]
  refine ⟨⟨_, congrArg Host.Outcome.next (respondBy_eq (r1Frame false) statusStream
      { s with rd := s.rd.bindOverrideData (bits (scr s)) }), rfl, hleft, ?_⟩,
    fun h => ⟨dispatch_app_row a hrow h, cardStatus_afterConsume_getLsbD_five s 51⟩⟩
  exact And.imp_right (readData_of_bytesLeft_zero 1)
    (readData_of_bindOverrideData (n := 8) (c := s.rd) rfl hlen (by decide) (by omega))

end Sys2Proof.Machine
end

section
/-! SUPPORT. The guard of `readData`, its read from a bound register, and the register accessors
(45_data_transfer.md R270, R271, R278). -/

namespace Sys2Proof.Machine

/-- A read that the guard refuses returns nothing and only warns (45_data_transfer.md R270). -/
theorem readData_rejected {n : Word} {s : State} (h : s.rd.bytesLeft = 0 ∨ s.rd.bytesLeft < n.toNat) :
    readData n s = respond (.bytes []) (logEvent .warning .readRejected s) := by
  obtain ⟨-, hr⟩ | ⟨hpos, hn, -⟩ := readData_cases n s
  · exact hr
  · omega

/-- Settles O43: the two reasons are exactly those for which the guard refuses. -/
theorem readDataRejected : Obligations.ReadDataRejected := fun _ _ => readData_rejected

/-- A well-formed bound context holds all the bytes that it counts as left (45_data_transfer.md R271): its cursor and its
stream stand at whole bytes. -/
theorem transferBytes_override_length {d : BitStream} {p k : Word} {n : Nat} (s : State)
    (hw : (IoCtx.override d p k).wf = true) (hn : n ≤ (IoCtx.override d p k).bytesLeft) :
    (transferBytes (.override d p k) n s).length = n := by
  simp only [IoCtx.wf, Bool.and_eq_true, decide_eq_true_eq] at hw
  obtain ⟨⟨⟨hp8, hpd⟩, hd8⟩, -⟩ := hw
  have hbytes : (bytes d).length = d.length / 8 := bytes_length (d.length / 8) d (by omega)
  simp only [IoCtx.bytesLeft] at hn
  simp only [transferBytes, List.length_take, List.length_drop, hbytes]
  omega

/-- A transfer of the full length is no short read. -/
theorem noteShortRead_of_length {out : List Byte} {n : Nat} (s : State) (h : out.length = n) :
    noteShortRead out n s = s := if_neg (by omega)

/-- A read that the guard accepts and that is not short only moves the context and answers. -/
theorem readData_of_full {n : Word} {s : State} {c c' : IoCtx} (hs : s.rd = c) (hpos : 0 < c.bytesLeft)
    (hadv : c.advance n.toNat = .ok c') (hfull : (transferBytes c n.toNat s).length = n.toNat) :
    readData n s = { s with rd := c', ret := .bytes (transferBytes c n.toNat s) } := by
  subst hs
  obtain ⟨hno, -⟩ | ⟨-, -, e, he, hr⟩ := readData_cases n s
  · rw [IoCtx.advance_error _ _ (by omega)] at hadv
    cases hadv
  · cases hadv.symm.trans he
    rw [hr, noteShortRead_of_length s hfull]
    rfl

/-- The bit cursor's move by a 32-bit count of bytes, as a 32-bit product. -/
theorem ofNat_eight_mul_toNat (n : Word) : BitVec.ofNat 32 (8 * n.toNat) = 8 * n := by
  rw [BitVec.ofNat_mul, BitVec.ofNat_toNat, BitVec.setWidth_eq]
  rfl

/-- Settles O44: a well-formed context is never short, so the read logs nothing, and its cursor does not wrap. -/
theorem readDataFromRegister : Obligations.ReadDataFromRegister := by
  intro n s d p k hrd hw hpos hn
  rw [hrd] at hw hpos hn
  have hfull := transferBytes_override_length s hw hn
  have hcur := IoCtx.override_advance_toNat d p k n.toNat hw hn
  have hadv := IoCtx.advance_ok (.override d p k) n.toNat hn
  simp only [ofNat_eight_mul_toNat] at hcur hadv
  exact ⟨hfull, hcur, readData_of_full hrd hpos hadv hfull⟩

/-- Every register is well-formed, so its accessor answers its value's stream (40_register_composer.md R121, R122). -/
theorem readRegister_eq (r : RegName) (s : State) :
    readRegister r s = .next { s with ret := .stream (bits ((registerOf r s).value s.card)) } := by
  simp only [readRegister, Reg.read, registerOf_wf, if_true, respond]

/-- Settles O49: one equation for all six accessors. -/
theorem registerAccessorsReadOnly : Obligations.RegisterAccessorsReadOnly := fun s =>
  ⟨readRegister_eq .cardStatus s, readRegister_eq .ocr s, readRegister_eq .csd s, readRegister_eq .cid s,
    readRegister_eq .scr s, readRegister_eq .sdStatus s⟩

end Sys2Proof.Machine
end

section
/-! SUPPORT. Decoding and encoding are inverse (30_encoding.md R81 to R88): every instruction is the filler, a token or
a row of a table, and the rows of both tables are sent and read alike. -/

namespace Sys2Proof.Machine

open Sys2Proof.Laws

/-! ### The rows of the tables -/

/-- Every instruction but the two byte rows is a row of a table with its argument (30_encoding.md R86). -/
theorem byte_or_row (i : Instr) : i = .fill ∨ (∃ n, i = .token n) ∨
    ∃ a, (∃ e ∈ applicationTable, e.2 a = i) ∨ ∃ e ∈ standardTable, e.2 a = i := by
  cases i with
  | fill => exact .inl rfl
  | token n => exact .inr (.inl ⟨n, rfl⟩)
  | acmd13 a | acmd41 a | acmd51 a => exact .inr (.inr ⟨a, .inl (by simp [applicationTable])⟩)
  | cmd0 a | cmd2 a | cmd3 a | cmd7 a | cmd8 a | cmd9 a | cmd12 a | cmd13 a | cmd16 a | cmd17 a | cmd18 a | cmd24 a
  | cmd55 a | cmd58 a => exact .inr (.inr ⟨a, .inr (by simp [standardTable])⟩)

/-- A row of the application table is read with the app flag set only (30_encoding.md R88). -/
theorem readUnder_app_row (app : Bool) (a : Word) : ∀ e ∈ applicationTable, (e.2 a).readUnder app = app := by
  simp [applicationTable, Instr.readUnder]

/-- A row of the standard table is read unless the flag is set and the application table holds its number
(30_encoding.md R87). -/
theorem readUnder_std_row (app : Bool) (a : Word) : ∀ e ∈ standardTable,
    ((e.2 a).readUnder app = true ↔ (app = true → e.1 ∉ applicationTable.map (·.1))) := by
  simp [standardTable, applicationTable, Instr.readUnder]

/-- A row's number, cut to the six bits of a frame, is sent with the argument (30_encoding.md R81). -/
theorem encodeWith_row (crc : Byte) (a : Word) : ∀ e ∈ applicationTable ++ standardTable,
    encodeWith crc (e.2 a) = frame (e.1.setWidth 6) a crc := by
  simp [applicationTable, standardTable, encodeWith]

/-- Every number of a table fits in the six bits of a frame. -/
theorem row_number_fits : ∀ e ∈ applicationTable ++ standardTable, (e.1.setWidth 6).setWidth 32 = e.1 := by
  simp [applicationTable, standardTable]

/-- A six-bit number widened to a command number and cut again is itself. -/
theorem setWidth_six_setWidth (n : BitVec 6) : (n.setWidth 32).setWidth 6 = n := by
  rw [BitVec.setWidth_setWidth_of_le _ (by decide), BitVec.setWidth_eq]

/-- A row read under the flag is what its number stands for. -/
theorem decodeCommand_of_row {app : Bool} {a : Word} {e : Word × (Word → Instr)}
    (he : e ∈ applicationTable ∨ e ∈ standardTable) (h : (e.2 a).readUnder app = true) :
    decodeCommand app e.1 a = .ok (e.2 a) := by
  obtain he | he := he
  · rw [readUnder_app_row app a e he] at h
    exact h ▸ decodeCommand_app_row a he
  · rw [decodeCommand_eq_decodeStd a ((readUnder_std_row app a e he).mp h), decodeStd_row a e he]

/-- What a number stands for under a flag is a row of that number, and one read under the flag. -/
theorem row_of_decodeCommand {app : Bool} {n a : Word} {i : Instr} (h : decodeCommand app n a = .ok i) :
    i.readUnder app = true ∧ ∃ e ∈ applicationTable ++ standardTable, e.1 = n ∧ e.2 a = i := by
  by_cases hn : app = true ∧ n ∈ applicationTable.map (·.1)
  · obtain ⟨rfl, hmem⟩ := hn
    obtain ⟨e, he, rfl⟩ := List.mem_map.mp hmem
    rw [decodeCommand_app_row a he] at h
    cases h
    exact ⟨readUnder_app_row true a e he, e, List.mem_append_left _ he, rfl, rfl⟩
  · rw [decodeCommand_eq_decodeStd a (not_and.mp hn)] at h
    obtain ⟨e, he, rfl, rfl⟩ := decodeStd_ok h
    exact ⟨(readUnder_std_row app a e he).mpr (not_and.mp hn), e, List.mem_append_right _ he, rfl, rfl⟩

/-- A number in no table that applies stands for nothing. -/
theorem decodeCommand_error {app : Bool} {n : Word} (a : Word) (hs : n ∉ standardTable.map (·.1))
    (ha : app = true → n ∉ applicationTable.map (·.1)) : decodeCommand app n a = .error (.unrecognized n) := by
  rw [decodeCommand_eq_decodeStd a ha, decodeStd_error a hs]

/-! ### Reading back what was sent -/

/-- A row is read back from its frame. -/
theorem decode_encodeWith_row {app : Bool} {a : Word} {e : Word × (Word → Instr)} (crc : Byte) (rest : List Byte)
    (he : e ∈ applicationTable ∨ e ∈ standardTable) (h : (e.2 a).readUnder app = true) :
    decode app (encodeWith crc (e.2 a) ++ rest) = .ok (e.2 a, rest) := by
  have hmem := List.mem_append.mpr he
  rw [encodeWith_row crc a e hmem]
  apply decode_frame
  rw [row_number_fits e hmem]
  exact decodeCommand_of_row he h

/-- A token byte with no whole frame of a table's number behind it is the row TOKEN (log 13). -/
theorem decode_token {app : Bool} {n : BitVec 6} {rest : List Byte} (h : rest.length < 5 ∨
    (n.setWidth 32 ∉ standardTable.map (·.1) ∧ (app = true → n.setWidth 32 ∉ applicationTable.map (·.1)))) :
    decode app (tokenByte n :: rest) = .ok (.token n, rest) := by
  simp only [decode, decodeByte_tokenByte]
  split
  · obtain hlt | ⟨hs, ha⟩ := h
    · simp only [List.length_cons] at hlt
      omega
    · rw [decodeCommand_error _ hs ha]
  · rfl

/-- Settles O2: the filler and the token are read back as bytes, every other instruction as a row of its table. -/
theorem decodeEncodeAgree : Obligations.DecodeEncodeAgree := by
  intro i crc app rest _ hread htoken
  obtain rfl | ⟨n, rfl⟩ | ⟨a, ⟨e, he, rfl⟩ | ⟨e, he, rfl⟩⟩ := byte_or_row i
  · rfl
  · exact decode_token (htoken n rfl)
  · exact decode_encodeWith_row crc rest (.inl he) hread
  · exact decode_encodeWith_row crc rest (.inr he) hread

/-! ### What is read was sent -/

/-- A byte read as the filler or as a token is the byte that sends it. -/
theorem eq_of_decodeByte_ok {x : Byte} {i : Instr} (h : decodeByte x = .ok i) :
    (x = 0xFF ∧ i = .fill) ∨ ∃ n, x = tokenByte n ∧ i = .token n := by
  have htoken : ∀ y : Byte, y &&& 0xC0 = 0x40 → y = tokenByte (tokenNumber y) := by decide
  unfold decodeByte at h
  split_ifs at h with hff htok
  · exact .inl ⟨hff, (Except.ok.inj h).symm⟩
  · exact .inr ⟨_, htoken x htok, (Except.ok.inj h).symm⟩

/-- The argument's bytes are the four it was assembled from (30_encoding.md R84). -/
theorem extractLsb'_argOfBytes (b1 b2 b3 b4 : Byte) :
    (argOfBytes b1 b2 b3 b4).extractLsb' 24 8 = b1 ∧ (argOfBytes b1 b2 b3 b4).extractLsb' 16 8 = b2 ∧
      (argOfBytes b1 b2 b3 b4).extractLsb' 8 8 = b3 ∧ (argOfBytes b1 b2 b3 b4).extractLsb' 0 8 = b4 := by
  refine ⟨?_, ?_, ?_, ?_⟩ <;> apply BitVec.eq_of_getLsbD_eq <;> intro i hi <;> interval_cases i <;> simp [argOfBytes]

/-- The frame of an assembled argument is made of the bytes it was assembled from (30_encoding.md R81). -/
theorem frame_argOfBytes (n : BitVec 6) (b1 b2 b3 b4 crc : Byte) :
    frame n (argOfBytes b1 b2 b3 b4) crc = [tokenByte n, b1, b2, b3, b4, crc] := by
  obtain ⟨h1, h2, h3, h4⟩ := extractLsb'_argOfBytes b1 b2 b3 b4
  rw [frame, h1, h2, h3, h4]

/-- Settles O3: a whole frame read as a command is that row's frame; any other byte read stands for itself. -/
theorem encodeDecodeAgree : Obligations.EncodeDecodeAgree := by
  intro app bs rest i h
  cases bs with
  | nil => cases h
  | cons b0 bs =>
    cases hb : decodeByte b0 with
    | error e => simp [decode, hb] at h
    | ok j =>
      obtain ⟨rfl, rfl⟩ | ⟨n, rfl, rfl⟩ := eq_of_decodeByte_ok hb
      · simp only [decode, hb] at h
        cases h
        exact ⟨rfl, 0, rfl⟩
      · simp only [decode, hb] at h
        split at h
        · rename_i b1 b2 b3 b4 crc tail
          split at h
          · rename_i k hk
            cases h
            obtain ⟨hread, e, he, hnum, rfl⟩ := row_of_decodeCommand hk
            refine ⟨hread, crc, ?_⟩
            rw [encodeWith_row crc _ e he, hnum, setWidth_six_setWidth, frame_argOfBytes]
            rfl
          · cases h
            exact ⟨rfl, 0, rfl⟩
        · cases h
          exact ⟨rfl, 0, rfl⟩

/-- Settles O1: the decoder computes on written words. -/
theorem writtenWordsDecode : Obligations.WrittenWordsDecode := by
  unfold Obligations.WrittenWordsDecode
  decide

end Sys2Proof.Machine
end

section
/-! SUPPORT. What each instruction writes, said once, and what a port call keeps: the fault record, the log, the
contexts' well-formedness (10_state.md R29, R40, R41; 41_io_context.md R168). -/

namespace Sys2Proof.Machine

/-! ### What an instruction writes -/

/-- The read context an instruction leaves, in the state its handler starts from (43_standard_commands.md R203, R209,
R211, R212; 44_app_commands.md R251, R255). -/
def readContextAfter : Instr → State → IoCtx
  | .cmd0 _, _ | .cmd12 _, _ => .store 0 0
  | .cmd17 a, s =>
    if s.params.spiMode then .store (blockOffset a s + s.card.blockLen) 0 else .store (blockOffset a s) s.card.blockLen
  | .cmd18 a, s => if s.params.spiMode then s.rd else s.rd.setOffset (blockOffset a s)
  | .acmd13 _, s => s.rd.bindOverrideData (bits (sdStatus s))
  | .acmd51 _, s => s.rd.bindOverrideData (bits (scr s))
  | .cmd2 _, s | .cmd3 _, s | .cmd7 _, s | .cmd8 _, s | .cmd9 _, s | .cmd13 _, s | .cmd16 _, s => s.rd
  | .cmd24 _, s | .cmd55 _, s | .cmd58 _, s | .acmd41 _, s | .fill, s | .token _, s => s.rd

/-- The write context an instruction leaves (43_standard_commands.md R203, R209, R213). -/
def writeContextAfter : Instr → State → IoCtx
  | .cmd0 _, _ | .cmd12 _, _ => .store 0 0
  | .cmd24 a, s => if s.params.spiMode then s.wr else .store (blockOffset a s) s.card.blockLen
  | .cmd2 _, s | .cmd3 _, s | .cmd7 _, s | .cmd8 _, s | .cmd9 _, s | .cmd13 _, s | .cmd16 _, s => s.wr
  | .cmd17 _, s | .cmd18 _, s | .cmd55 _, s | .cmd58 _, s | .acmd13 _, s | .acmd41 _, s | .acmd51 _, s => s.wr
  | .fill, s | .token _, s => s.wr

/-- The frame an instruction leaves (43_standard_commands.md R203; 42_spi_framing.md R183). -/
def frameAfter : Instr → SpiFrame → SpiFrame
  | .cmd0 _, _ => SpiFrame.reset
  | .token n, f => { f with state := .waitingForArgBytes, cmdNum := n, arg := 0, argCount := 0 }
  | .cmd2 _, f | .cmd3 _, f | .cmd7 _, f | .cmd8 _, f | .cmd9 _, f | .cmd12 _, f | .cmd13 _, f | .cmd16 _, f => f
  | .cmd17 _, f | .cmd18 _, f | .cmd24 _, f | .cmd55 _, f | .cmd58 _, f => f
  | .acmd13 _, f | .acmd41 _, f | .acmd51 _, f | .fill, f => f

/-- The state an instruction leaves, its new events and its result given. -/
def State.afterInstr (s : State) (i : Instr) (new : List Event) (r : PortResult) : State :=
  { s with
    card := cardAfter i s.card
    rd := readContextAfter i s
    wr := writeContextAfter i s
    spi := frameAfter i s.spi
    log := s.log ++ new
    ret := r }

/-- An instruction that notes nothing leaves the log as it was. -/
theorem State.afterInstr_nil (s : State) (i : Instr) (r : PortResult) :
    s.afterInstr i [] r = { s with
      card := cardAfter i s.card, rd := readContextAfter i s, wr := writeContextAfter i s, spi := frameAfter i s.spi
      ret := r } := by
  rw [State.afterInstr, List.append_nil]

/-- The SPI half of CMD17 (43_standard_commands.md R211): `rd` consumed past the block, a short block noted, the frame
sent. -/
theorem execCmd17_spi (a : Word) {s : State} (h : s.params.spiMode = true) :
    execCmd17 a s = .next { s with
      rd := .store (blockOffset a s + s.card.blockLen) 0
      log := if clip s.storeLen (blockOffset a s).toNat s.card.blockLen.toNat < s.card.blockLen.toNat then
        s.log ++ [⟨.warning, .shortRead⟩] else s.log
      ret := .stream (ofBytes (readDataFrame (memRead (blockOffset a s).toNat s.card.blockLen.toNat s) s)) } := by
  simp only [execCmd17, h, if_true, armRead_eq]
  rw [readBlockInline_eq (blockOffset a s) _ rfl, noteShortRead_eq, memRead_length]
  rfl

/-- A log to which an event is added, or not, has grown. -/
theorem exists_ite_append (p : Prop) [Decidable p] (l x : List Event) :
    ∃ new, (if p then l ++ x else l) = l ++ new := by
  split
  · exact ⟨x, rfl⟩
  · exact ⟨[], (List.append_nil l).symm⟩

/-- A log left alone has grown by nothing. -/
theorem exists_append_self (l : List Event) : ∃ new, l = l ++ new := ⟨[], (List.append_nil l).symm⟩

/-- Every instruction writes the fields `State.afterInstr` names, and no other. -/
theorem exec_afterInstr {i : Instr} {s t : State} (h : exec i s = .next t) : ∃ new, t = s.afterInstr i new t.ret := by
  cases i with
  | fill | token => cases h; exact ⟨[], by rw [State.afterInstr_nil]; rfl⟩
  | cmd0 | cmd8 | cmd9 | cmd12 | cmd13 | cmd16 | cmd55 | cmd58 | acmd13 | acmd41 | acmd51 =>
    cases h
    exact ⟨[], by rw [State.afterInstr_nil, respondBy_eq]; rfl⟩
  | cmd2 | cmd3 | cmd7 | cmd18 | cmd24 =>
    cases h
    cases hm : s.params.spiMode with
    | false =>
      refine ⟨[], ?_⟩
      rw [nativeOnly_native _ hm, State.afterInstr_nil]
      simp only [readContextAfter, writeContextAfter, hm]; rfl
    | true =>
      refine ⟨[⟨.warning, .unsupportedInSpi⟩], ?_⟩
      rw [nativeOnly_spi _ hm]
      simp only [State.afterInstr, readContextAfter, writeContextAfter, hm]; rfl
  | cmd17 a =>
    cases hm : s.params.spiMode with
    | false =>
      cases h
      refine ⟨[], ?_⟩
      rw [State.afterInstr_nil]
      simp only [readContextAfter, hm]; rfl
    | true =>
      cases (execCmd17_spi a hm).symm.trans h
      obtain ⟨new, hnew⟩ := exists_ite_append
        (clip s.storeLen (blockOffset a s).toNat s.card.blockLen.toNat < s.card.blockLen.toNat) s.log
        [⟨.warning, .shortRead⟩]
      refine ⟨new, ?_⟩
      simp only [hnew, State.afterInstr, readContextAfter, hm]; rfl

/-- No instruction writes the card address, and the block length and the app flag are written by those named alone
(43_standard_commands.md R203, R210, R214; 44_app_commands.md R252). -/
theorem cardAfter_frame (i : Instr) (c : Card) :
    (cardAfter i c).rca = c.rca ∧
    ((∀ a, i ≠ .cmd16 a) → (cardAfter i c).blockLen = c.blockLen) ∧
    ((∀ a, i ≠ .cmd0 a ∧ i ≠ .cmd55 a) → (cardAfter i c).appCmd = c.appCmd) := by
  cases i <;> simp [cardAfter]

/-- The contexts and the frame are written by the instructions named alone. -/
theorem contextsAfter_frame (i : Instr) (s : State) :
    ((∀ a, i ≠ .cmd0 a ∧ i ≠ .cmd12 a ∧ i ≠ .cmd17 a ∧ i ≠ .cmd18 a ∧ i ≠ .acmd13 a ∧ i ≠ .acmd51 a) →
      readContextAfter i s = s.rd) ∧
    ((∀ a, i ≠ .cmd0 a ∧ i ≠ .cmd12 a ∧ i ≠ .cmd24 a) → writeContextAfter i s = s.wr) ∧
    ((∀ a, i ≠ .cmd0 a) → (∀ n, i ≠ .token n) → frameAfter i s.spi = s.spi) := by
  cases i <;> simp [readContextAfter, writeContextAfter, frameAfter]

/-- Settles O36: the next state is `State.afterInstr`, which writes only the card state, the contexts, the frame, the
log's end and the result. -/
theorem commandFrame : Obligations.CommandFrame := by
  intro i s t h
  obtain ⟨new, ht⟩ := exec_afterInstr h
  rw [ht]
  obtain ⟨hrca, hblock, happ⟩ := cardAfter_frame i s.card
  exact ⟨⟨rfl, hrca, rfl, rfl, fun _ => rfl, rfl, rfl, rfl, rfl, rfl, rfl⟩, ⟨new, rfl⟩, hblock,
    fun hi => cardAfter_isIdle_of_ne _ (fun a => (hi a).1) (fun a => (hi a).2), happ, contextsAfter_frame i s⟩

/-! ### What every port call keeps -/

/-- What a port call keeps from one state to the next: recorded contract faults, and F3 as it was (10_state.md R40;
41_io_context.md R165), the events (R41), the store-bound write context (10_state.md R29) and the read context's
well-formedness (41_io_context.md R168). -/
structure Keeps (s t : State) : Prop where
  faults : ∀ k : FaultKind, s.fault.has k = true → t.fault.has k = true
  underflow : t.fault.advanceUnderflow = s.fault.advanceUnderflow
  log : ∃ new, t.log = s.log ++ new
  writeBound : s.wr.isStore = true → t.wr.isStore = true
  readWf : s.rd.wf = true → t.rd.wf = true

theorem Keeps.trans {s t u : State} (h : Keeps s t) (h' : Keeps t u) : Keeps s u where
  faults k := h'.faults k ∘ h.faults k
  underflow := h'.underflow.trans h.underflow
  log := by
    obtain ⟨new, hn⟩ := h.log
    obtain ⟨new', hn'⟩ := h'.log
    exact ⟨new ++ new', by rw [hn', hn, List.append_assoc]⟩
  writeBound := h'.writeBound ∘ h.writeBound
  readWf := h'.readWf ∘ h.readWf

/-- A call that leaves the record, and the contexts well-formed. -/
theorem Keeps.of_contexts {s t : State} (hf : t.fault = s.fault) (hl : ∃ new, t.log = s.log ++ new)
    (hw : s.wr.isStore = true → t.wr.isStore = true) (hr : s.rd.wf = true → t.rd.wf = true) : Keeps s t :=
  ⟨fun _ => hf ▸ id, by rw [hf], hl, hw, hr⟩

/-- A call that writes neither the record nor a context. -/
theorem Keeps.of_eq {s t : State} (hf : t.fault = s.fault) (hl : ∃ new, t.log = s.log ++ new) (hw : t.wr = s.wr)
    (hr : t.rd = s.rd) : Keeps s t := .of_contexts hf hl (hw ▸ id) (hr ▸ id)

/-- A kind stands in the record exactly when it has been added (10_state.md R40). -/
theorem FaultSet.has_add (f : FaultSet) (k j : FaultKind) : (f.add k).has j = (decide (j = k) || f.has j) := by
  cases k <;> cases j <;> rfl

/-- Recording a contract fault other than F3 removes none. -/
theorem contractFault_keeps {k : FaultKind} (s : State) (hk : k ≠ .advanceUnderflow) : Keeps s (contractFault k s) where
  faults j hj := by rw [contractFault_fault, FaultSet.has_add, hj, Bool.or_true]
  underflow := by
    have h3 := FaultSet.has_add s.fault k .advanceUnderflow
    rwa [decide_eq_false hk.symm, Bool.false_or] at h3
  log := ⟨_, rfl⟩
  writeBound := id
  readWf := id

theorem writeContextAfter_isStore {i : Instr} {s : State} (h : s.wr.isStore = true) :
    (writeContextAfter i s).isStore = true := by
  cases i <;> simp only [writeContextAfter, h]
  case cmd0 | cmd12 => rfl
  case cmd24 => split <;> [exact h; rfl]

/-- The registers that commands bind are whole bytes, and the longest is 512 bits (41_io_context.md R165, R168). -/
theorem readContextAfter_wf {i : Instr} {s : State} (h : s.rd.wf = true) : (readContextAfter i s).wf = true := by
  cases i <;> simp only [readContextAfter, h]
  case cmd0 | cmd12 => rfl
  case cmd17 => split <;> rfl
  case cmd18 => split <;> [exact h; rfl]
  case acmd13 | acmd51 => exact IoCtx.bindOverrideData_wf _ (by simp) (by simp)

theorem exec_keeps {i : Instr} {s t : State} (h : exec i s = .next t) : Keeps s t := by
  obtain ⟨new, ht⟩ := exec_afterInstr h
  rw [ht]
  exact .of_contexts rfl ⟨new, rfl⟩ writeContextAfter_isStore readContextAfter_wf

theorem afterConsume_keeps (n : Word) (s : State) : Keeps s (s.afterConsume n) :=
  .of_eq rfl (exists_ite_append _ s.log [⟨.debug, .notAppCommand⟩]) rfl rfl

theorem unrecognized_keeps (s : State) : Keeps s (unrecognized s) := by
  rw [unrecognized_eq]
  exact .of_eq rfl ⟨_, rfl⟩ rfl rfl

theorem dispatch_keeps {n a : Word} {s t : State} (h : dispatch n a s = .next t) : Keeps s t := by
  obtain ⟨i, -, h⟩ | ⟨-, rfl⟩ := dispatch_cases h
  · exact (afterConsume_keeps n s).trans (exec_keeps h)
  · exact (afterConsume_keeps n s).trans (unrecognized_keeps _)

theorem argumentByte_keeps (x : Byte) (s : State) : Keeps s (argumentByte x s) := by
  unfold argumentByte
  split <;> exact .of_eq rfl (exists_append_self _) rfl rfl

theorem startResponse_keeps (s : State) : Keeps s (startResponse s) := by
  unfold startResponse
  split
  · exact .of_eq rfl (exists_append_self _) rfl rfl
  · exact .of_eq rfl ⟨_, rfl⟩ rfl rfl

theorem sendByte_keeps (s : State) : Keeps s (sendByte s) := by
  unfold sendByte
  split <;> exact .of_eq rfl (exists_append_self _) rfl rfl

theorem transmit_keeps {x : Byte} {s t : State} (h : transmit x s = .next t) : Keeps s t := by
  obtain ⟨-, rfl⟩ | ⟨-, ⟨-, h⟩ | ⟨-, rfl⟩ | ⟨-, u, hu, rfl⟩ | ⟨-, rfl⟩⟩ := transmit_cases h
  · exact (contractFault_keeps s (by simp)).trans (.of_eq rfl (exists_append_self _) rfl rfl)
  · obtain ⟨-, h⟩ | ⟨n, -, h⟩ | ⟨-, rfl⟩ := h
    · exact exec_keeps h
    · exact exec_keeps h
    · exact .of_eq rfl ⟨_, rfl⟩ rfl rfl
  · exact argumentByte_keeps x s
  · exact (dispatch_keeps hu).trans (startResponse_keeps u)
  · exact sendByte_keeps s

theorem readData_keeps (n : Word) (s : State) : Keeps s (readData n s) := by
  obtain ⟨-, h⟩ | ⟨-, -, c, hc, h⟩ := readData_cases n s
  · rw [h]
    exact .of_eq rfl ⟨_, rfl⟩ rfl rfl
  · rw [h, noteShortRead_eq]
    exact .of_contexts rfl (exists_ite_append _ s.log [⟨.warning, .shortRead⟩]) id
      fun hw => IoCtx.advance_wf _ _ _ hw hc

theorem writeData_keeps (v : List Byte) (s : State) : Keeps s (writeData v s) := by
  obtain ⟨-, h⟩ | ⟨-, -, c, hc, h⟩ := writeData_cases v s
  · rw [h]
    exact .of_eq rfl ⟨_, rfl⟩ rfl rfl
  · rw [h, noteShortWrite_eq]
    exact .of_contexts rfl (exists_ite_append _ s.log [⟨.warning, .shortWrite⟩])
      (fun hw => (IoCtx.advance_isStore _ _ _ hc).trans hw) id

theorem setReadLimit_keeps (k : Word) (s : State) : Keeps s (setReadLimit k s) := by
  unfold setReadLimit
  cases s.rd with
  | store o c => exact .of_contexts rfl (exists_append_self _) id fun _ => rfl
  | override d p c => exact contractFault_keeps s (by simp)

theorem portCall_keeps {c : PortCall} {s t : State} (h : portCall c s = .next t) : Keeps s t := by
  cases c with
  | handleCommand n a => exact dispatch_keeps h
  | transmit x => exact transmit_keeps h
  | readData n => cases h; exact readData_keeps n s
  | writeData v => cases h; exact writeData_keeps v s
  | setReadLimit k => cases h; exact setReadLimit_keeps k s
  | readRegister r => cases (readRegister_eq r s).symm.trans h; exact .of_eq rfl (exists_append_self _) rfl rfl
  | finishTransmission | dispose => cases h; exact .of_eq rfl (exists_append_self _) rfl rfl
  | reset => cases h; exact .of_contexts rfl (exists_append_self _) (fun _ => rfl) fun _ => rfl

theorem step_keeps {s t : State} (h : step s = .next t) : Keeps s t := by
  obtain ⟨-, rfl⟩ | ⟨c, rest, u, -, -, hu, rfl⟩ := step_cases h
  · exact .of_eq rfl (exists_append_self _) rfl rfl
  · obtain ⟨hf, hu3, hl, hw, hr⟩ := portCall_keeps hu
    exact ⟨hf, hu3, hl, hw, hr⟩

/-- Settles O39: every step keeps the record and only appends to the log. -/
theorem faultRecordIsSticky : Obligations.FaultRecordIsSticky := fun _ _ h =>
  ⟨(step_keeps h).faults, (step_keeps h).log⟩

/-- Settles O40: the ports record F1 and F2 only, since the guards of the data ports leave `advance` no way to fault. -/
theorem noStepRecordsAdvanceUnderflow : Obligations.NoStepRecordsAdvanceUnderflow := fun _ _ h =>
  (step_keeps h).underflow

end Sys2Proof.Machine
end

section
/-! SUPPORT. What a step does to the store, to the free draws and to the frame, and with that the invariant
(10_state.md R34, R36; 42_spi_framing.md R186, R191). -/

namespace Sys2Proof.Machine

/-! ### A dispatched command's answer -/

/-- No row of a table is the filler or a token. -/
theorem row_ne_byte (a : Word) : ∀ e ∈ applicationTable ++ standardTable, e.2 a ≠ .fill ∧ ∀ n, e.2 a ≠ .token n := by
  simp [applicationTable, standardTable]

/-- What a command number stands for is neither the filler nor a token. -/
theorem decodeCommand_ne_byte {app : Bool} {n a : Word} {i : Instr} (h : decodeCommand app n a = .ok i) :
    i ≠ .fill ∧ ∀ k, i ≠ .token k := by
  obtain ⟨-, e, he, -, rfl⟩ := row_of_decodeCommand h
  exact row_ne_byte a e he

/-- In SPI mode a command answers with a frame of at least one byte (42_spi_framing.md R191). -/
theorem exec_answer_spi {i : Instr} {s t : State} (hm : s.params.spiMode = true) (hf : i ≠ .fill)
    (hk : ∀ n, i ≠ .token n) (h : exec i s = .next t) : ∃ q qs, t.ret = .stream (ofBytes (q :: qs)) := by
  cases i with
  | fill => exact absurd rfl hf
  | token n => exact absurd rfl (hk n)
  | cmd0 | cmd8 | cmd9 | cmd12 | cmd13 | cmd16 | cmd55 | cmd58 | acmd13 | acmd41 | acmd51 =>
    cases h
    exact ⟨_, _, by rw [respondBy_eq]; exact congrArg PortResult.stream (if_pos hm)⟩
  | cmd2 | cmd3 | cmd7 | cmd18 | cmd24 =>
    cases h
    exact ⟨_, _, by rw [nativeOnly_spi _ hm]; rfl⟩
  | cmd17 a =>
    cases (execCmd17_spi a hm).symm.trans h
    exact ⟨_, _, rfl⟩

theorem dispatch_answer_spi {n a : Word} {s t : State} (hm : s.params.spiMode = true) (h : dispatch n a s = .next t) :
    ∃ q qs, t.ret = .stream (ofBytes (q :: qs)) := by
  obtain ⟨i, hi, h⟩ | ⟨-, rfl⟩ := dispatch_cases h
  · obtain ⟨hf, hk⟩ := decodeCommand_ne_byte hi
    exact exec_answer_spi (s := s.afterConsume n) hm hf hk h
  · exact ⟨_, _, by rw [unrecognized_eq]; exact congrArg PortResult.stream (if_pos hm)⟩

/-- After a dispatch in SPI mode the response is started with its first byte (42_spi_framing.md R185). -/
theorem startResponse_of_dispatch {n a : Word} {s t : State} (hm : s.params.spiMode = true)
    (h : dispatch n a s = .next t) : ∃ q qs,
      startResponse t = respondByte q { t with spi := { t.spi with queue := qs, state := .sendingResponse } } := by
  obtain ⟨q, qs, hr⟩ := dispatch_answer_spi hm h
  exact ⟨q, qs, startResponse_of_cons ((responseBytes_of_stream hr).trans (bytes_ofBytes _))⟩

/-! ### The store and the free draws -/

theorem exec_store_draws {i : Instr} {s t : State} (h : exec i s = .next t) :
    t.store = s.store ∧ t.draws = s.draws := by
  obtain ⟨new, ht⟩ := exec_afterInstr h
  rw [ht]
  exact ⟨rfl, rfl⟩

theorem dispatch_store_draws {n a : Word} {s t : State} (h : dispatch n a s = .next t) :
    t.store = s.store ∧ t.draws = s.draws := by
  obtain ⟨i, -, h⟩ | ⟨-, rfl⟩ := dispatch_cases h
  · exact exec_store_draws (s := s.afterConsume n) h
  · rw [unrecognized_eq]
    exact ⟨rfl, rfl⟩

/-- An exchange never meets an empty response, so it draws nothing (42_spi_framing.md R186). -/
theorem transmit_store_draws {x : Byte} {s t : State} (h : transmit x s = .next t) :
    t.store = s.store ∧ t.draws = s.draws := by
  obtain ⟨-, rfl⟩ | ⟨hm, ⟨-, h⟩ | ⟨-, rfl⟩ | ⟨-, u, hu, rfl⟩ | ⟨-, rfl⟩⟩ := transmit_cases h
  · exact ⟨rfl, rfl⟩
  · obtain ⟨-, h⟩ | ⟨n, -, h⟩ | ⟨-, rfl⟩ := h
    · exact exec_store_draws h
    · exact exec_store_draws h
    · exact ⟨rfl, rfl⟩
  · unfold argumentByte
    split <;> exact ⟨rfl, rfl⟩
  · obtain ⟨q, qs, hq⟩ := startResponse_of_dispatch hm hu
    rw [hq]
    exact dispatch_store_draws (t := u) hu
  · unfold sendByte
    split <;> exact ⟨rfl, rfl⟩

theorem readData_store_draws (n : Word) (s : State) :
    (readData n s).store = s.store ∧ (readData n s).draws = s.draws := by
  obtain ⟨-, h⟩ | ⟨-, -, c, -, h⟩ := readData_cases n s
  · rw [h]; exact ⟨rfl, rfl⟩
  · rw [h, noteShortRead_eq]; exact ⟨rfl, rfl⟩

theorem setReadLimit_store_draws (k : Word) (s : State) :
    (setReadLimit k s).store = s.store ∧ (setReadLimit k s).draws = s.draws := by
  unfold setReadLimit
  cases s.rd <;> exact ⟨rfl, rfl⟩

/-- The write port stores nothing, or what `MemWrite` stores at the write offset (45_data_transfer.md R274). -/
theorem writeData_store_draws (v : List Byte) (s : State) :
    ((writeData v s).store = s.store ∨ (writeData v s).store = (memWrite s.wr.offset.toNat v s).store) ∧
      (writeData v s).draws = s.draws := by
  obtain ⟨-, h⟩ | ⟨-, -, c, -, h⟩ := writeData_cases v s
  · rw [h]; exact ⟨.inl rfl, rfl⟩
  · rw [h, noteShortWrite_eq]; exact ⟨.inr rfl, rfl⟩

theorem portCall_store_draws {c : PortCall} {s t : State} (h : portCall c s = .next t) :
    (t.store = s.store ∨ ∃ v, c = .writeData v ∧ t.store = (memWrite s.wr.offset.toNat v s).store) ∧
      t.draws = s.draws := by
  cases c with
  | handleCommand n a => exact (dispatch_store_draws h).imp_left .inl
  | transmit x => exact (transmit_store_draws h).imp_left .inl
  | readData n => cases h; exact (readData_store_draws n s).imp_left .inl
  | setReadLimit k => cases h; exact (setReadLimit_store_draws k s).imp_left .inl
  | readRegister r => cases (readRegister_eq r s).symm.trans h; exact ⟨.inl rfl, rfl⟩
  | finishTransmission | reset | dispose => cases h; exact ⟨.inl rfl, rfl⟩
  | writeData v =>
    cases h
    exact (writeData_store_draws v s).imp_left (.imp_right fun hs => ⟨v, rfl, hs⟩)

/-- A step leaves the store as it was, or executes `writeData` and stores through `MemWrite` (10_state.md R36). -/
theorem step_store {s t : State} (h : step s = .next t) : t.store = s.store ∨
    ∃ v rest, s.pending = .writeData v :: rest ∧ t.store = (memWrite s.wr.offset.toNat v s).store := by
  obtain ⟨-, rfl⟩ | ⟨c, rest, u, hp, -, hu, rfl⟩ := step_cases h
  · exact .inl rfl
  · obtain ⟨hs | ⟨v, rfl, hs⟩, -⟩ := portCall_store_draws hu
    · exact .inl hs
    · exact .inr ⟨v, rest, hp, hs⟩

/-- A step draws no free value. -/
theorem step_draws {s t : State} (h : step s = .next t) : t.draws = s.draws := by
  obtain ⟨-, rfl⟩ | ⟨c, rest, u, -, -, hu, rfl⟩ := step_cases h
  · rfl
  · exact (portCall_store_draws hu).2

/-- `MemWrite` changes bytes of the store below 2^32 only (20_memory.md R51). -/
theorem memWrite_readByte_ne {addr a : Nat} {v : List Byte} {s : State}
    (h : (memWrite addr v s).store.readByte a ≠ s.store.readByte a) : a < s.storeLen ∧ a < 2 ^ 32 := by
  have hin : addr ≤ a ∧ a - addr < clip s.storeLen addr v.length := by
    by_contra hout
    refine h (Memory.readByte_writeBytes_ne _ _ _ _ ?_)
    rw [List.length_take]
    omega
  obtain ⟨hle, hlt⟩ := hin
  have := clip_bounds hlt
  rwa [Nat.add_sub_cancel' hle] at this

/-- Settles O41: only `writeData` stores, through `MemWrite`, which stays in the store and below 2^32. -/
theorem onlyWriteDataChangesStore : Obligations.OnlyWriteDataChangesStore := by
  intro s t a h hne
  obtain hs | ⟨v, rest, hp, hs⟩ := step_store h
  · exact absurd (by rw [hs]) hne
  · rw [hs] at hne
    exact ⟨⟨v, rest, hp⟩, memWrite_readByte_ne hne⟩

/-- Settles O42: every SPI answer has a first byte, and only an empty one would draw. -/
theorem spiDispatchNeverEmpty : Obligations.SpiDispatchNeverEmpty := by
  refine ⟨fun n a s t hm h => ?_, fun _ _ => step_draws⟩
  obtain ⟨q, qs, hr⟩ := dispatch_answer_spi hm h
  exact ⟨_, hr, by simp⟩

/-! ### The frame (10_state.md R34) -/

theorem SpiFrame.wf_iff (f : SpiFrame) : f.wf = true ↔
    (f.state = .sendingResponse ∨ f.queue = []) ∧ (f.state = .waitingForArgBytes → f.argCount.val ≤ 3) := by
  simp only [SpiFrame.wf, Bool.and_eq_true, Bool.or_eq_true, beq_iff_eq, bne_iff_ne, decide_eq_true_eq, imp_iff_not_or]

/-- A dispatched command leaves the frame or resets it (43_standard_commands.md R201, R203). -/
theorem dispatch_spi {n a : Word} {s t : State} (h : dispatch n a s = .next t) :
    t.spi = s.spi ∨ t.spi = SpiFrame.reset := by
  obtain ⟨i, hi, h⟩ | ⟨-, rfl⟩ := dispatch_cases h
  · obtain ⟨new, ht⟩ := exec_afterInstr h
    rw [ht]
    have hk := (decodeCommand_ne_byte hi).2
    cases i with
    | token k => exact absurd rfl (hk k)
    | cmd0 => exact .inr rfl
    | _ => exact .inl rfl
  · rw [unrecognized_eq]
    exact .inl rfl

theorem argumentByte_spi_wf {x : Byte} {s : State} (hs : s.spi.state = .waitingForArgBytes) (hw : s.spi.wf = true) :
    (argumentByte x s).spi.wf = true := by
  obtain ⟨hq, -⟩ := (SpiFrame.wf_iff _).mp hw
  have hq : s.spi.queue = [] := by simpa [hs] using hq
  unfold argumentByte
  split
  · rename_i hlt
    refine (SpiFrame.wf_iff _).mpr ⟨.inr hq, fun _ => ?_⟩
    change (s.spi.argCount + 1).val ≤ 3
    omega
  · exact (SpiFrame.wf_iff _).mpr ⟨.inr hq, nofun⟩

theorem sendByte_spi_wf {s : State} (hs : s.spi.state = .sendingResponse) : (sendByte s).spi.wf = true := by
  unfold sendByte
  split
  · exact (SpiFrame.wf_iff _).mpr ⟨.inl hs, fun h => by cases hs.symm.trans h⟩
  · rename_i hq
    exact (SpiFrame.wf_iff _).mpr ⟨.inr hq, nofun⟩

/-- An exchange keeps the frame well-formed. -/
theorem transmit_spi_wf {x : Byte} {s t : State} (h : transmit x s = .next t) (hw : s.spi.wf = true) :
    t.spi.wf = true := by
  obtain ⟨-, rfl⟩ | ⟨hm, ⟨hs, h⟩ | ⟨hs, rfl⟩ | ⟨-, u, hu, rfl⟩ | ⟨hs, rfl⟩⟩ := transmit_cases h
  · exact hw
  · obtain ⟨-, h⟩ | ⟨n, -, h⟩ | ⟨-, rfl⟩ := h
    · cases h; exact hw
    · cases h
      obtain ⟨hq, -⟩ := (SpiFrame.wf_iff _).mp hw
      exact (SpiFrame.wf_iff _).mpr ⟨.inr (by simpa [hs] using hq), fun _ => Nat.zero_le 3⟩
    · exact hw
  · exact argumentByte_spi_wf hs hw
  · obtain ⟨q, qs, hq⟩ := startResponse_of_dispatch hm hu
    rw [hq]
    exact (SpiFrame.wf_iff _).mpr ⟨.inl rfl, nofun⟩
  · exact sendByte_spi_wf hs

theorem portCall_spi_wf {c : PortCall} {s t : State} (h : portCall c s = .next t) (hw : s.spi.wf = true) :
    t.spi.wf = true := by
  cases c with
  | handleCommand n a =>
    obtain hs | hs := dispatch_spi h
    · rw [hs]; exact hw
    · rw [hs]; rfl
  | transmit x => exact transmit_spi_wf h hw
  | readData n =>
    cases h
    obtain ⟨-, h⟩ | ⟨-, -, c, -, h⟩ := readData_cases n s
    · rw [h]; exact hw
    · rw [h, noteShortRead_eq]; exact hw
  | writeData v =>
    cases h
    obtain ⟨-, h⟩ | ⟨-, -, c, -, h⟩ := writeData_cases v s
    · rw [h]; exact hw
    · rw [h, noteShortWrite_eq]; exact hw
  | setReadLimit k =>
    cases h
    unfold setReadLimit
    cases s.rd <;> exact hw
  | readRegister r => cases (readRegister_eq r s).symm.trans h; exact hw
  | dispose => cases h; exact hw
  | finishTransmission | reset => cases h; rfl

theorem step_spi_wf {s t : State} (h : step s = .next t) (hw : s.spi.wf = true) : t.spi.wf = true := by
  obtain ⟨-, rfl⟩ | ⟨c, rest, u, -, -, hu, rfl⟩ := step_cases h
  · exact hw
  · exact portCall_spi_wf (s := { s with pending := rest }) (t := u) hu hw

/-! ### The card address and the invariant -/

/-- A dispatch keeps the card address (10_state.md R23). -/
theorem Card.afterDispatch_rca (c : Card) (n a : Word) : (c.afterDispatch n a).rca = c.rca := by
  unfold Card.afterDispatch
  split
  · exact (cardAfter_frame _ _).1
  · rfl

theorem State.nextCard_rca (s : State) : s.nextCard.rca = s.card.rca := by
  unfold State.nextCard
  split_ifs
  · rfl
  · split
    · exact Card.afterDispatch_rca ..
    · rfl

/-- A step keeps the store's cells canonical and inside the store (20_memory.md R51). -/
theorem step_store_wf {s t : State} (h : step s = .next t) (hw : s.store.wf = true)
    (hb : s.store.below s.storeLen = true) : t.store.wf = true ∧ t.store.below s.storeLen = true := by
  obtain hs | ⟨v, rest, -, hs⟩ := step_store h
  · exact hs ▸ ⟨hw, hb⟩
  · exact hs ▸ ⟨memWrite_store_wf _ v s hw, memWrite_store_below _ v s hb⟩

/-- A step keeps the parameters and the card address (00_scope.md R9; 10_state.md R23). -/
theorem step_params_rca {s t : State} (h : step s = .next t) : t.params = s.params ∧ t.card.rca = s.card.rca :=
  ⟨congrArg CardCore.params (step_core h), by rw [step_card h, State.nextCard_rca]⟩

/-- A step keeps the geometry and the store length (10_state.md R35). -/
theorem step_geom_storeLen {s t : State} (h : step s = .next t) : t.geom = s.geom ∧ t.storeLen = s.storeLen :=
  ⟨congrArg CardCore.geom (step_core h), congrArg CardCore.storeLen (step_core h)⟩

/-- Settles O60: one lemma for each part of the invariant; the geometry, the store length, the parameters and the card
address are constants of the card. -/
theorem stepKeepsInvariant : Obligations.StepKeepsInvariant := by
  rintro s t ⟨hstore, hbelow, hwr, hrd, hspi, hlen, hrca⟩ h
  obtain ⟨hparams, hrca'⟩ := step_params_rca h
  obtain ⟨hgeom, hlen'⟩ := step_geom_storeLen h
  obtain ⟨hstore', hbelow'⟩ := step_store_wf h hstore hbelow
  have hkeeps := step_keeps h
  refine ⟨hstore', hlen' ▸ hbelow', hkeeps.writeBound hwr, hkeeps.readWf hrd, step_spi_wf h hspi, ?_, ?_⟩
  · rw [hgeom, hlen', hlen]
  · rw [hrca', hparams, hrca]

/-- Settles O59: the reset card's store is empty, its contexts and its frame are initial, and its geometry encodes its
16 MiB. -/
theorem invariantHoldsAtReset : Obligations.InvariantHoldsAtReset := by
  have hgeom : State.reset.geom.length = State.reset.storeLen := by decide
  exact ⟨rfl, rfl, rfl, rfl, rfl, hgeom, rfl⟩

end Sys2Proof.Machine
end

section
/-! SUPPORT. The composer (40_register_composer.md R120 to R123), the wire order of streams (00_scope.md R12,
20_memory.md R57), and the values of the six registers (R130 to R135). -/

namespace Sys2Proof.Machine

/-! ### Composition -/

theorem Reg.wf_iff (r : Reg) : r.wf = true ↔ ∀ f ∈ r.frags, 1 ≤ f.w ∧ f.off + f.w ≤ r.width := by
  simp [Reg.wf]

/-- A fragment sets the bits it covers to its source's (R122). -/
theorem Fragment.testBit_place (f : Fragment) (c : Card) (i : Nat) : (f.place c).testBit i =
    (decide (f.off ≤ i) && decide (i < f.off + f.w) && (f.src.eval c).testBit (i - f.off)) := by
  rw [Fragment.place, Nat.testBit_shiftLeft, Nat.testBit_mod_two_pow]
  by_cases h : f.off ≤ i
  · simp only [ge_iff_le, h, decide_true, Bool.true_and, Nat.sub_lt_iff_lt_add' h]
  · simp only [ge_iff_le, h, decide_false, Bool.false_and]

/-- The OR of the fragments has a bit where the start value or some fragment has it. -/
theorem testBit_foldl_place (c : Card) (i : Nat) : ∀ (fs : List Fragment) (v : Nat),
    (fs.foldl (fun v f => v ||| f.place c) v).testBit i = (v.testBit i || fs.any fun f => (f.place c).testBit i)
  | [], v => by simp
  | f :: fs, v => by
    rw [List.foldl_cons, testBit_foldl_place c i fs, Nat.testBit_or, List.any_cons, Bool.or_assoc]

/-- Bit i of a composed register (R122). -/
theorem Reg.value_getLsbD (r : Reg) (c : Card) {i : Nat} (h : i < r.width) : (r.value c).getLsbD i =
    r.frags.any fun f => decide (f.off ≤ i) && decide (i < f.off + f.w) && (f.src.eval c).testBit (i - f.off) := by
  rw [Reg.value, BitVec.getLsbD_ofNat, testBit_foldl_place, Nat.zero_testBit]
  simp only [h, decide_true, Bool.true_and, Bool.false_or, Fragment.testBit_place]

/-! ### Wire order -/

/-- Element i of a stream is the value's bit i from the top (00_scope.md R12). -/
theorem bits_getElem? {w : Nat} (v : BitVec w) {i : Nat} (h : i < w) : (bits v)[i]? = some (v.getLsbD (w - 1 - i)) := by
  simp [bits, h, BitVec.getMsbD]

/-- A stream of n + 1 bytes is its top byte's stream and then the rest's. -/
theorem bits_eq_top_append {n : Nat} (v : BitVec (8 * (n + 1))) :
    bits v = bits (v.extractLsb' (8 * n) 8) ++ bits (v.setWidth (8 * n)) := by
  apply List.ext_getElem?
  intro i
  by_cases hi : i < 8 * (n + 1)
  · rw [bits_getElem? v hi, List.getElem?_append, bits_length]
    split
    · rename_i h8
      rw [bits_getElem? _ h8, BitVec.getLsbD_extractLsb']
      simp only [show 8 - 1 - i < 8 by omega, decide_true, Bool.true_and]
      congr 2; omega
    · rename_i h8
      rw [bits_getElem? _ (by omega), BitVec.getLsbD_setWidth]
      simp only [show 8 * n - 1 - (i - 8) < 8 * n by omega, decide_true, Bool.true_and]
      congr 2; omega
  · rw [List.getElem?_eq_none (by rw [bits_length]; omega),
      List.getElem?_eq_none (by rw [List.length_append, bits_length, bits_length]; omega)]

/-- Byte j of a stream is the value's byte j from the top (20_memory.md R57). -/
theorem bytes_bits_getElem? : ∀ (n : Nat) (v : BitVec (8 * n)) (j : Nat), j < n →
    (bytes (bits v))[j]? = some (v.extractLsb' (8 * (n - 1 - j)) 8)
  | n + 1, v, 0, _ => by
    rw [bits_eq_top_append, bytes_bits_append]; rfl
  | n + 1, v, j + 1, h => by
    rw [bits_eq_top_append, bytes_bits_append, List.getElem?_cons_succ, bytes_bits_getElem? n _ j (by omega)]
    congr 1
    apply BitVec.eq_of_getLsbD_eq
    intro i hi
    simp only [BitVec.getLsbD_extractLsb', BitVec.getLsbD_setWidth]
    have hin : 8 * (n - 1 - j) + i < 8 * n := by omega
    simp only [hi, hin, decide_true, Bool.true_and]
    congr 1; omega

/-- Settles O51: the composed value bit by bit, and the order of streams bit by bit and byte by byte. -/
theorem composerPlacesFragments : Obligations.ComposerPlacesFragments := by
  refine ⟨fun r c => ⟨?_, fun i => r.value_getLsbD c⟩, fun w v => ⟨bits_length v, fun i => bits_getElem? v⟩,
    fun n v => ⟨bytes_length n _ (bits_length v), bytes_bits_getElem? n v⟩, bytes_ofBytes⟩
  simp only [Reg.read, Reg.wf_iff]

/-! ### The registers -/

/-- The card status is READY_FOR_DATA and the app flag (R130). -/
theorem cardStatus_eq (s : State) : cardStatus s = if s.card.appCmd then 0x00000120 else 0x00000100 := by
  simp only [cardStatus, cardStatusReg, Reg.value, List.foldl, Fragment.place, Source.eval]
  cases s.card.appCmd <;> rfl

/-- The operating conditions are the power-up status at bit 31 and the voltage window at bits 23:15 (R131). -/
theorem ocr_eq (s : State) : ocr s = 0x80FF8000 := by
  simp [ocr, ocrReg, Reg.value, Fragment.place, Source.eval]

/-- A register of one constant fragment over its whole width is that constant (R132, R134, R135). -/
theorem Reg.value_whole {w : Nat} (v : BitVec w) (c : Card) :
    (Reg.mk w [⟨0, w, .const v.toNat⟩]).value c = v := by
  apply BitVec.eq_of_getLsbD_eq
  intro i hi
  rw [Reg.value_getLsbD _ _ hi]
  simp [Source.eval, hi, BitVec.testBit_toNat]

theorem cid_eq (s : State) : cid s = s.params.cid := Reg.value_whole s.params.cid s.card

theorem scr_eq (s : State) : scr s = s.params.scr := Reg.value_whole s.params.scr s.card

theorem sdStatus_eq (s : State) : sdStatus s = s.params.sdStatus := Reg.value_whole s.params.sdStatus s.card

/-- A field of w bits at bit o of a 128-bit value has the bits a fragment there would place. -/
theorem getLsbD_field {w i : Nat} (v : BitVec w) (o : Nat) (hi : i < 128) : ((v.setWidth 128) <<< o).getLsbD i =
    (decide (o ≤ i) && decide (i < o + w) && v.toNat.testBit (i - o)) := by
  rw [BitVec.getLsbD_shiftLeft, BitVec.getLsbD_setWidth, BitVec.testBit_toNat]
  by_cases ho : o ≤ i
  · by_cases hw : i < o + w
    · simp [ho, hw, hi, show i - o < 128 by omega]
    · simp [ho, hw, BitVec.getLsbD_of_ge v (i - o) (by omega)]
  · simp [ho, show i < o by omega]

/-- The CSD is CSD_BASE with the geometry over it (R133). -/
theorem csd_eq (s : State) : csd s = s.params.csdBase ||| (s.geom.m.setWidth 128 <<< 47) |||
    (s.geom.d.setWidth 128 <<< 62) ||| (s.geom.b.setWidth 128 <<< 80) := by
  apply BitVec.eq_of_getLsbD_eq
  intro i hi
  have hcsd : (csd s).getLsbD i = _ := (csdReg s.params s.geom).value_getLsbD s.card hi
  rw [hcsd, BitVec.getLsbD_or, BitVec.getLsbD_or, BitVec.getLsbD_or, getLsbD_field _ _ hi, getLsbD_field _ _ hi,
    getLsbD_field _ _ hi]
  simp only [csdReg, Source.eval, List.any_cons, List.any_nil, Nat.zero_le, Nat.zero_add, Nat.sub_zero, hi,
    decide_true, Bool.true_and, Bool.or_false, BitVec.testBit_toNat]
  ac_rfl

/-- R1 is the illegal-command bit and the idle bit (30_encoding.md R94). -/
theorem r1_eq (ill : Bool) (s : State) :
    r1 ill s = (if ill then 0x04 else 0x00) ||| (if s.card.isIdle then 0x01 else 0x00) := by
  unfold r1
  cases ill <;> rfl

/-- Settles O50: one equation for each register and one for R1. -/
theorem registerValues : Obligations.RegisterValues := fun s =>
  ⟨cardStatus_eq s, ocr_eq s, cid_eq s, csd_eq s, scr_eq s, sdStatus_eq s, fun ill => r1_eq ill s⟩

/-- Settles O38: the constant registers are the parameters' and the geometry's, which no step writes. -/
theorem parametersNeverChange : Obligations.ParametersNeverChange := by
  intro s t h
  obtain ⟨hparams, hrca⟩ := step_params_rca h
  obtain ⟨hgeom, -⟩ := step_geom_storeLen h
  refine ⟨hparams, hrca, ?_, ?_, ?_, ?_, ocr_const t s, cardStatus_congr⟩
  · rw [cid_eq, cid_eq, hparams]
  · rw [csd_eq, csd_eq, hparams, hgeom]
  · rw [scr_eq, scr_eq, hparams]
  · rw [sdStatus_eq, sdStatus_eq, hparams]

end Sys2Proof.Machine
end

section
/-! SUPPORT. The answers of the commands that write a context or the idle flag, of the native-only ones and of the byte
rows (43_standard_commands.md R203 to R205, R211 to R213; 44_app_commands.md R252; 42_spi_framing.md R181, R183), and the
app flag's one shot (43_standard_commands.md R220). -/

namespace Sys2Proof.Machine

/-! ### Native-only commands -/

/-- A command that SPI mode rejects warns, answers an illegal-command R1, and does nothing else (R218). -/
theorem unsupportedSpi_eq (s : State) : unsupportedSpi s =
    { s with log := s.log ++ [⟨.warning, .unsupportedInSpi⟩], ret := .stream (ofBytes [r1 true s]) } := rfl

/-- The R1 byte of an accepted command is the idle bit (30_encoding.md R94). -/
theorem r1_false (s : State) : r1 false s = if s.card.isIdle then 0x01 else 0x00 := by
  rw [r1_eq]
  cases s.card.isIdle <;> rfl

/-- Settles O6: CMD0 answers, by `spi?`, from the reset card, whose R1 has the idle bit alone. -/
theorem goIdleResetsCard : Obligations.GoIdleResetsCard := by
  intro a s
  have hr1 : r1Frame false (resetCard s) = [0x01] := congrArg (fun x => [x]) (r1_false (resetCard s))
  refine congrArg Host.Outcome.next ((respondBy_eq (r1Frame false) (fun _ => []) (resetCard s)).trans ?_)
  rw [hr1]
  rfl

/-- Settles O7: CMD2 is native only, and its answer is the CID parameter. -/
theorem sendIdentificationReply : Obligations.SendIdentificationReply := fun _ s =>
  ⟨fun h => congrArg Host.Outcome.next ((nativeOnly_native _ h).trans (by rw [cid_eq]; rfl)),
    fun h => congrArg Host.Outcome.next ((nativeOnly_spi _ h).trans (unsupportedSpi_eq s))⟩

/-- A 16-bit value over another, packed into a word by a shift. -/
theorem append_eq_shiftLeft_or (a b : BitVec 16) : a ++ b = (a.setWidth 32 <<< 16) ||| b.setWidth 32 := by
  rw [BitVec.append_def, BitVec.shiftLeftZeroExtend_eq, BitVec.setWidth'_eq]

/-- The r6 answer is the card address over the status's low half, whose bits 23, 22 and 19 are 0 (R205). -/
theorem r6_eq (s : State) : r6 s = s.card.rca ++ (if s.card.appCmd then 0x0120#16 else 0x0100#16) := by
  rw [r6, cardStatus_eq, append_eq_shiftLeft_or]
  cases s.card.appCmd <;> simp

/-- Settles O8: CMD3 is native only, and its answer is r6. -/
theorem sendRelativeAddressReply : Obligations.SendRelativeAddressReply := fun _ s =>
  ⟨fun h => congrArg Host.Outcome.next ((nativeOnly_native _ h).trans (by rw [r6_eq]; rfl)),
    fun h => congrArg Host.Outcome.next ((nativeOnly_spi _ h).trans (unsupportedSpi_eq s))⟩

/-! ### Block addresses -/

/-- The block address is the product modulo 2^32 (20_memory.md R62). -/
theorem blockOffset_eq (a : Word) (s : State) :
    blockOffset a s = BitVec.ofNat 32 (a.toNat * s.card.blockLen.toNat) := by
  rw [BitVec.ofNat_mul, BitVec.ofNat_toNat, BitVec.ofNat_toNat, BitVec.setWidth_eq, BitVec.setWidth_eq, blockOffset]

/-- Settles O15: native CMD17 arms the read context and answers. -/
theorem readSingleBlockArmsRead : Obligations.ReadSingleBlockArmsRead := by
  intro a s h
  have ht : exec (.cmd17 a) s = .next (respondStream _ (armRead (blockOffset a s) s.card.blockLen s)) :=
    congrArg Host.Outcome.next (if_neg (by simp [h]))
  rw [ht, armRead_eq, blockOffset_eq]
  rfl

/-- Settles O16: the SPI half of CMD17, with its offset as a number. -/
theorem readSingleBlockSendsBlock : Obligations.ReadSingleBlockSendsBlock := by
  intro a s h
  have hoff : (blockOffset a s).toNat = (a.toNat * s.card.blockLen.toNat) % 2 ^ 32 := BitVec.toNat_mul ..
  refine ⟨_, execCmd17_spi a h, ?_, _, rfl, ?_⟩
  · simp only [← hoff, BitVec.ofNat_toNat, BitVec.setWidth_eq]
    rfl
  · rw [bytes_ofBytes, ← hoff]
    rfl

/-- Settles O17: CMD18 is native only; it sets the offset, which keeps the counter of either kind of context. -/
theorem readMultipleBlocksSetsOffset : Obligations.ReadMultipleBlocksSetsOffset := fun a s =>
  ⟨fun h => congrArg Host.Outcome.next ((nativeOnly_native _ h).trans (by
      rw [blockOffset_eq, IoCtx.setOffset, IoCtx.counter.eq_def]; rfl)),
    fun h => congrArg Host.Outcome.next ((nativeOnly_spi _ h).trans (unsupportedSpi_eq s))⟩

/-- Settles O18: CMD24 is native only; it arms the write context. -/
theorem writeSingleBlockArmsWrite : Obligations.WriteSingleBlockArmsWrite := fun a s =>
  ⟨fun h => congrArg Host.Outcome.next ((nativeOnly_native _ h).trans (by rw [blockOffset_eq]; rfl)),
    fun h => congrArg Host.Outcome.next ((nativeOnly_spi _ h).trans (unsupportedSpi_eq s))⟩

/-! ### The idle flag and the byte rows -/

/-- ACMD41 clears the idle flag, and its R1 shows it clear (44_app_commands.md R252). -/
theorem execAcmd41_eq (a : Word) (s : State) : execAcmd41 a s = .next { s with
    card := { s.card with isIdle := false }
    ret := .stream (if s.params.spiMode then ofBytes [0x00] else bits (ocr s)) } := by
  have hr1 : r1Frame false (clearIdle s) = [0x00] := congrArg (fun x => [x]) (r1_false (clearIdle s))
  refine congrArg Host.Outcome.next ((respondBy_eq (r1Frame false) (fun t => bits (ocr t)) (clearIdle s)).trans ?_)
  rw [hr1]
  rfl

/-- Settles O22: a second ACMD41 writes what already stands. -/
theorem opCondLeavesIdle : Obligations.OpCondLeavesIdle := fun a s =>
  ⟨_, execAcmd41_eq a s, rfl, fun a' => execAcmd41_eq a' _⟩

/-- Settles O24: FILL returns R1, which is the idle bit. -/
theorem fillerReturnsReadyByte : Obligations.FillerReturnsReadyByte := fun s =>
  congrArg (fun x => Host.Outcome.next (respondByte x s)) (r1_false s)

/-- Settles O25: a byte with the framing bits is no filler; it is read as its number's token, which latches it. -/
theorem tokenLatchesNumber : Obligations.TokenLatchesNumber := by
  intro x s hx
  have hff : x ≠ 0xFF := by
    rintro rfl
    exact absurd hx (by decide)
  exact ⟨by rw [decodeByte, if_neg hff, if_pos hx, tokenNumber], rfl⟩

/-! ### The app flag (43_standard_commands.md R220) -/

/-- Only row 55 of the standard table is the app-command marker. -/
theorem row_eq_cmd55 (a b : Word) : ∀ e ∈ applicationTable ++ standardTable, e.2 a = .cmd55 b → e.1 = 55 := by
  simp [applicationTable, standardTable]

/-- Number 55 is the app-command marker whatever the app flag. -/
theorem decodeCommand_55 (app : Bool) (a : Word) : decodeCommand app 55 a = .ok (.cmd55 a) := by
  cases app <;> rfl

/-- An instruction leaves the app flag clear, where its handler finds it so, unless it is the marker. -/
theorem cardAfter_appCmd_of_ne {i : Instr} (c : Card) (hc : c.appCmd = false) (h : ∀ a, i ≠ .cmd55 a) :
    (cardAfter i c).appCmd = false := by
  cases i with
  | cmd55 a => exact absurd rfl (h a)
  | cmd0 => rfl
  | _ => exact hc

/-- A dispatch leaves the flag set for number 55 alone. -/
theorem Card.afterDispatch_appCmd (c : Card) (n a : Word) : (c.afterDispatch n a).appCmd = decide (n = 55) := by
  by_cases hn : n = 55
  · subst hn
    rw [Card.afterDispatch, decodeCommand_55]
    rfl
  · rw [decide_eq_false hn, Card.afterDispatch]
    split
    · rename_i i hi
      obtain ⟨-, e, he, rfl, rfl⟩ := row_of_decodeCommand hi
      exact cardAfter_appCmd_of_ne _ rfl fun b hb => hn (row_eq_cmd55 a b e he hb)
    · rfl

/-- The container's reset dispatches nothing. -/
theorem State.dispatched_of_resetting {s : State} (h : s.resetting = true) : s.dispatched = none := by
  cases hp : s.pending with
  | nil => simp [State.dispatched, hp]
  | cons c rest =>
    obtain rfl : c = .reset := by simpa [State.resetting, hp] using h
    simp [State.dispatched, hp]

/-- Settles O34: the card state after a step is `State.nextCard`; a dispatch and a reset exclude each other. -/
theorem appFlagIsOneShot : Obligations.AppFlagIsOneShot := by
  intro s t h
  rw [step_card h, State.nextCard]
  refine ⟨fun n a hd => ?_, fun hr => ?_, fun hd hr => ?_⟩
  · have hr : s.resetting ≠ true := fun hr => by simp [State.dispatched_of_resetting hr] at hd
    rw [if_neg hr, hd]
    exact Card.afterDispatch_appCmd ..
  · rw [if_pos hr]
  · rw [if_neg (by simp [hr]), hd]

end Sys2Proof.Machine
end

section
/-! SUPPORT. One step of a port call, and the framer's exchanges that run no command (00_scope.md R15; 42_spi_framing.md
R180 to R188; 45_data_transfer.md R270 to R278). -/

namespace Sys2Proof.Machine

/-! ### One call -/

/-- A step executes the pending call and hands its result on (00_scope.md R15). -/
theorem step_of_portCall {s u : State} {c : PortCall} {rest : List PortCall} (hp : s.pending = c :: rest)
    (hd : s.disposed = false) (h : portCall c { s with pending := rest } = .next u) : step s = .next (deliver u) := by
  rw [step_call hp hd, h, onNext_next]

/-- A framer that waits for a command runs what the byte is read as (42_spi_framing.md R181, R183). -/
theorem transmit_of_waitingForCommand {s : State} {x : Byte} {i : Instr} (hm : s.params.spiMode = true)
    (hs : s.spi.state = .waitingForCommand) (hx : decodeByte x = .ok i) : transmit x s = exec i s := by
  simp only [transmit, hm, hs, hx, if_true]

/-- A byte read as nothing is answered as a malformed token (42_spi_framing.md R182). -/
theorem transmit_of_malformed {s : State} {x : Byte} {e : DecodeError} (hm : s.params.spiMode = true)
    (hs : s.spi.state = .waitingForCommand) (hx : decodeByte x = .error e) :
    transmit x s = .next (malformedToken s) := by
  simp only [transmit, hm, hs, hx, if_true]

theorem transmit_of_waitingForArgBytes {s : State} (x : Byte) (hm : s.params.spiMode = true)
    (hs : s.spi.state = .waitingForArgBytes) : transmit x s = .next (argumentByte x s) := by
  simp only [transmit, hm, hs, if_true]

theorem transmit_of_sendingResponse {s : State} (x : Byte) (hm : s.params.spiMode = true)
    (hs : s.spi.state = .sendingResponse) : transmit x s = .next (sendByte s) := by
  simp only [transmit, hm, hs, if_true]

theorem transmit_of_native {s : State} (x : Byte) (hm : s.params.spiMode = false) :
    transmit x s = .next (respondByte 0x00 (contractFault .spiDisabled s)) := by
  simp only [transmit, hm, Bool.false_eq_true, if_false]

/-- Settles O4: a step is its port call, whose instruction is the decoded one. -/
theorem stepRunsDecodedInstruction : Obligations.StepRunsDecodedInstruction := by
  intro s rest hd
  refine ⟨fun i _ => ⟨fun x hp hm hs hx => ?_, fun n a hp hi => ?_, fun x hp hm hs hi => ?_⟩, fun n a hp => ?_,
    fun n hp => ?_, fun v hp => ?_, fun k hp => ?_, fun r hp => ?_⟩ <;> rw [step_call hp hd]
  · exact congrArg (onNext · deliver) (transmit_of_waitingForCommand (s := { s with pending := rest }) hm hs hx)
  · exact congrArg (onNext · deliver) (dispatch_of_ok (s := { s with pending := rest }) hi)
  · refine congrArg (onNext · deliver) ((transmit_of_waitingForCRC (s := { s with pending := rest }) x hm hs).trans ?_)
    exact congrArg (onNext · startResponse) (dispatch_of_ok (s := { s with pending := rest }) hi)
  all_goals rfl

/-- Settles O5: no call, a refused call, and the call that disposes. -/
theorem idleStepAndDisposedStep : Obligations.IdleStepAndDisposedStep := by
  refine ⟨fun s hp => ?_, fun s c rest hp hd => ?_, fun s rest hp hd => step_of_portCall hp hd rfl⟩
  · simp only [step, runNextCall, hp]
  · simp only [step, runNextCall, hp, hd, if_true]

/-- Settles O58: the container's reset is `resetCard`. -/
theorem resetPortClearsProtocolState : Obligations.ResetPortClearsProtocolState := fun _ _ hp hd =>
  step_of_portCall hp hd rfl

/-- Settles O30: the port replaces the frame by the initial one. -/
theorem finishTransmissionResetsFrame : Obligations.FinishTransmissionResetsFrame := fun _ _ hp hd =>
  step_of_portCall hp hd rfl

/-- Settles O31: the exchange is the shared contract fault, and returns 0x00. -/
theorem nativeTransmitIsContractFault : Obligations.NativeTransmitIsContractFault := fun x s rest hp hd hm =>
  step_of_portCall hp hd (transmit_of_native (s := { s with pending := rest }) x hm)

/-- The R1 byte of a rejected command is the illegal-command bit and the idle bit (30_encoding.md R94). -/
theorem r1_true (s : State) : r1 true s = if s.card.isIdle then 0x05 else 0x04 := by
  rw [r1_eq]
  cases s.card.isIdle <;> rfl

/-- A byte outside 0x40..0x7F that is not 0xFF is read as nothing (30_encoding.md R89). -/
theorem decodeByte_malformed : ∀ x : Byte, (x.toNat < 0x40 ∨ (0x80 ≤ x.toNat ∧ x.toNat ≤ 0xFE)) →
    decodeByte x = .error (.malformedToken x) := by
  decide

/-- Settles O26: such a byte is no instruction, so only the warning and the R1 are left. -/
theorem malformedTokenAnswer : Obligations.MalformedTokenAnswer := by
  intro x s rest hp hd hm hs hx
  rw [step_of_portCall hp hd
    (transmit_of_malformed (s := { s with pending := rest }) hm hs (decodeByte_malformed x hx)), ← r1_true s]
  rfl

/-! ### The bytes of a frame -/

/-- The frame after one argument byte (42_spi_framing.md R184). -/
def SpiFrame.shiftIn (f : SpiFrame) (x : Byte) : SpiFrame where
  state := if f.argCount.val < 3 then .waitingForArgBytes else .waitingForCRC
  cmdNum := f.cmdNum
  arg := (f.arg <<< 8) ||| x.setWidth 32
  argCount := f.argCount + 1
  queue := f.queue

/-- An argument byte is shifted in and 0x00 returned; a count of four is no argument state's (10_state.md R34). -/
theorem argumentByte_eq (x : Byte) {s : State} (hs : s.spi.state = .waitingForArgBytes)
    (hc : s.spi.argCount.val ≤ 3) :
    argumentByte x s = { s with spi := s.spi.shiftIn x, ret := .byte 0x00 } := by
  unfold argumentByte SpiFrame.shiftIn
  split
  · rw [← hs]; rfl
  · have h3 : s.spi.argCount = 3 := Fin.ext (by change s.spi.argCount.val = 3; omega)
    rw [h3]; rfl

/-- The step of one argument byte. -/
theorem step_argumentByte {x : Byte} {s : State} {rest : List PortCall} (hp : s.pending = .transmit x :: rest)
    (hd : s.disposed = false) (hm : s.params.spiMode = true) (hs : s.spi.state = .waitingForArgBytes)
    (hc : s.spi.argCount.val ≤ 3) : step s = .next { s with
      pending := rest, spi := s.spi.shiftIn x, ret := .byte 0x00, returned := s.returned ++ [.byte 0x00] } := by
  rw [step_of_portCall hp hd (transmit_of_waitingForArgBytes (s := { s with pending := rest }) x hm hs),
    argumentByte_eq (s := { s with pending := rest }) x hs hc]
  rfl

/-- The step of a command token. -/
theorem step_tokenByte {n : BitVec 6} {s : State} {rest : List PortCall}
    (hp : s.pending = .transmit (tokenByte n) :: rest) (hd : s.disposed = false) (hm : s.params.spiMode = true)
    (hs : s.spi.state = .waitingForCommand) : step s = .next { s with
      pending := rest
      spi := { state := .waitingForArgBytes, cmdNum := n, arg := 0, argCount := 0, queue := s.spi.queue }
      ret := .byte 0x00, returned := s.returned ++ [.byte 0x00] } :=
  step_of_portCall hp hd (transmit_of_waitingForCommand (s := { s with pending := rest }) hm hs
    (Laws.decodeByte_tokenByte n))

/-- The step of each of several argument bytes, the first four at most; `ret` already is the byte they return. -/
theorem steps_argumentBytes : ∀ (xs : List Byte) (s : State) (rest : List PortCall),
    s.pending = xs.map .transmit ++ rest → s.disposed = false → s.params.spiMode = true → s.ret = .byte 0x00 →
    (xs ≠ [] → s.spi.state = .waitingForArgBytes) → s.spi.argCount.val + xs.length ≤ 4 →
    steps xs.length s = .next { s with
      pending := rest
      spi := xs.foldl SpiFrame.shiftIn s.spi
      returned := s.returned ++ List.replicate xs.length (.byte 0x00) }
  | [], s, rest, hp, _, _, _, _, _ => by
    simp only [List.map_nil, List.nil_append] at hp
    subst hp
    simp
  | x :: xs, s, rest, hp, hd, hm, hr, hs, hc => by
    have hs := hs (List.cons_ne_nil x xs)
    rw [List.length_cons] at hc
    have hcount : (s.spi.argCount + 1).val = s.spi.argCount.val + 1 := by omega
    rw [List.length_cons, steps_next _ (step_argumentByte hp hd hm hs (by omega)), steps_argumentBytes xs _ rest]
    · simp [hr, List.replicate_succ]
    · rfl
    · exact hd
    · exact hm
    · rfl
    · intro hne
      have := List.length_pos_iff.mpr hne
      exact if_pos (by omega)
    · change (s.spi.argCount + 1).val + xs.length ≤ 4
      omega

/-- The argument bytes shifted in one by one are assembled big-endian (30_encoding.md R84). -/
theorem shiftIn_eq_argOfBytes (b1 b2 b3 b4 : Byte) :
    ((((0#32 <<< 8 ||| b1.setWidth 32) <<< 8 ||| b2.setWidth 32) <<< 8 ||| b3.setWidth 32) <<< 8 |||
      b4.setWidth 32) = argOfBytes b1 b2 b3 b4 := by
  simp only [argOfBytes, BitVec.shiftLeft_or_distrib, ← BitVec.shiftLeft_add, BitVec.zero_shiftLeft, BitVec.zero_or]

/-- The frame after a token and the four argument bytes of `a`. -/
theorem foldl_shiftIn_frame (n : BitVec 6) (a : Word) (q : List Byte) :
    [a.extractLsb' 24 8, a.extractLsb' 16 8, a.extractLsb' 8 8, a.extractLsb' 0 8].foldl SpiFrame.shiftIn
      { state := .waitingForArgBytes, cmdNum := n, arg := 0, argCount := 0, queue := q } =
    { state := .waitingForCRC, cmdNum := n, arg := a, argCount := 4, queue := q } := by
  have harg := (shiftIn_eq_argOfBytes (a.extractLsb' 24 8) (a.extractLsb' 16 8) (a.extractLsb' 8 8)
    (a.extractLsb' 0 8)).trans (argOfBytes_extract a)
  simp only [List.foldl, SpiFrame.shiftIn]
  exact congrArg (fun w => SpiFrame.mk .waitingForCRC n w 4 q) harg

/-- Settles O27: the token's step, then the argument bytes' steps, which shift in the argument. -/
theorem frameLatchesCommand : Obligations.FrameLatchesCommand := by
  refine ⟨fun n a crc s rest hp hd hm hs => ?_, fun x s rest hp hd hm hs hw =>
    step_argumentByte hp hd hm hs (((SpiFrame.wf_iff _).mp hw).2 hs)⟩
  have hargs := steps_argumentBytes
    [a.extractLsb' 24 8, a.extractLsb' 16 8, a.extractLsb' 8 8, a.extractLsb' 0 8] { s with
      pending := [a.extractLsb' 24 8, a.extractLsb' 16 8, a.extractLsb' 8 8, a.extractLsb' 0 8].map .transmit ++
        .transmit crc :: rest
      spi := { state := .waitingForArgBytes, cmdNum := n, arg := 0, argCount := 0, queue := s.spi.queue }
      ret := .byte 0x00, returned := s.returned ++ [.byte 0x00] }
    (.transmit crc :: rest) rfl hd hm rfl (fun _ => rfl) le_rfl
  rw [steps_next 4 (step_tokenByte hp hd hm hs)]
  refine hargs.trans ?_
  rw [foldl_shiftIn_frame, List.append_assoc]
  rfl

/-! ### Sending a response -/

/-- The step that sends the first queued byte (42_spi_framing.md R187). -/
theorem step_sendByte_cons {x b : Byte} {bs : List Byte} {s : State} {rest : List PortCall}
    (hp : s.pending = .transmit x :: rest) (hd : s.disposed = false) (hm : s.params.spiMode = true)
    (hs : s.spi.state = .sendingResponse) (hq : s.spi.queue = b :: bs) : step s = .next { s with
      pending := rest, spi := { s.spi with queue := bs }, ret := .byte b, returned := s.returned ++ [.byte b] } := by
  rw [step_of_portCall hp hd (transmit_of_sendingResponse (s := { s with pending := rest }) x hm hs)]
  simp only [sendByte, hq]
  rfl

/-- The step that finds the queue drained. -/
theorem step_sendByte_nil {x : Byte} {s : State} {rest : List PortCall} (hp : s.pending = .transmit x :: rest)
    (hd : s.disposed = false) (hm : s.params.spiMode = true) (hs : s.spi.state = .sendingResponse)
    (hq : s.spi.queue = []) : step s = .next { s with
      pending := rest, spi := { s.spi with state := .waitingForCommand }, ret := .byte 0x00
      returned := s.returned ++ [.byte 0x00] } := by
  rw [step_of_portCall hp hd (transmit_of_sendingResponse (s := { s with pending := rest }) x hm hs)]
  simp only [sendByte, hq]
  rfl

/-- A queue is drained by one exchange a byte and one more (42_spi_framing.md R187). -/
theorem steps_drain : ∀ (xs : List Byte) (s : State) (rest : List PortCall),
    s.pending = xs.map .transmit ++ rest → s.disposed = false → s.params.spiMode = true →
    s.spi.state = .sendingResponse → xs.length = s.spi.queue.length + 1 →
    steps xs.length s = .next { s with
      pending := rest
      spi := { s.spi with state := .waitingForCommand, queue := [] }
      ret := .byte 0x00
      returned := s.returned ++ s.spi.queue.map .byte ++ [.byte 0x00] }
  | [], _, _, _, _, _, _, hlen => absurd hlen (Nat.zero_ne_add_one _)
  | x :: xs, s, rest, hp, hd, hm, hs, hlen => by
    cases hq : s.spi.queue with
    | nil =>
      obtain rfl : xs = [] := List.eq_nil_of_length_eq_zero (by simpa [hq] using hlen)
      rw [List.length_singleton, steps_next 0 (step_sendByte_nil hp hd hm hs hq), steps_zero]
      simp [hq]
    | cons b bs =>
      rw [List.length_cons, steps_next _ (step_sendByte_cons hp hd hm hs hq), steps_drain xs _ rest]
      · simp
      · rfl
      · exact hd
      · exact hm
      · exact hs
      · simpa [hq] using hlen

/-- Settles O29: the drain, by induction on the bytes sent, and its two kinds of exchange. -/
theorem responseDrains : Obligations.ResponseDrains :=
  ⟨steps_drain, fun _ _ _ hp hd hm hs =>
    ⟨fun _ _ => step_sendByte_cons hp hd hm hs, step_sendByte_nil hp hd hm hs⟩⟩

end Sys2Proof.Machine
end

section
/-! SUPPORT. The data ports on a store-bound context, a block written and read back, and the cursor's moves
(20_memory.md R52 to R56; 41_io_context.md R161, R165, R166; 45_data_transfer.md R272, R274, R277). -/

namespace Sys2Proof.Machine

/-- A store-bound context advances by the full count (41_io_context.md R165). -/
theorem IoCtx.advance_store (o : Word) {k : Word} {n : Nat} (h : n ≤ k.toNat) :
    (IoCtx.store o k).advance n = .ok (.store (o + BitVec.ofNat 32 n) (k - BitVec.ofNat 32 n)) :=
  IoCtx.advance_ok (.store o k) n h

/-- Settles O45: the guard accepts, the transfer is `MemRead`'s, and the store-bound cursor moves. -/
theorem readDataFromStore : Obligations.ReadDataFromStore := by
  intro n s o k hrd hpos hn
  obtain ⟨hno, -⟩ | ⟨-, -, c, hc, hr⟩ := readData_cases n s
  · simp only [hrd, IoCtx.bytesLeft] at hno
    omega
  · rw [hrd, IoCtx.advance_store o hn] at hc
    cases hc
    rw [hr, noteShortRead_eq, hrd, transferBytes, memRead_length]
    simp only [BitVec.ofNat_toNat, BitVec.setWidth_eq]
    rfl

/-- Settles O46: rejected, the port only warns; accepted, it stores through `MemWrite`, whose every byte is known. -/
theorem writeDataStores : Obligations.WriteDataStores := by
  intro v s o k hwr hw
  obtain ⟨hno, hr⟩ | ⟨hpos, hle, c, hc, hr⟩ := writeData_cases v s
  · simp only [hwr, IoCtx.bytesLeft] at hno
    exact ⟨fun _ => hr, fun _ _ => by omega⟩
  · simp only [hwr, IoCtx.bytesLeft] at hpos hle
    rw [hwr, IoCtx.advance_store o hle] at hc
    cases hc
    rw [hwr] at hr
    have hstore : (writeData v s).store = (memWrite o.toNat v s).store := by rw [hr, noteShortWrite_eq]; rfl
    refine ⟨fun _ => by omega, fun _ _ => ⟨_, rfl, ?_, fun j hj => ?_, fun a ha => ?_⟩⟩
    · rw [hstore, hr, noteShortWrite_eq]
      rfl
    · change j < clip s.storeLen o.toNat v.length at hj
      rw [hstore, memWrite_readByte _ _ _ _ hw, if_pos (by omega), Nat.add_sub_cancel_left]
    · change a < o.toNat ∨ o.toNat + clip s.storeLen o.toNat v.length ≤ a at ha
      rw [hstore, memWrite_readByte _ _ _ _ hw, if_neg (by omega)]

/-- Settles O47: a transfer inside the store is whole both ways, and each byte read is the one written. -/
theorem writeThenReadBack : Obligations.WriteThenReadBack := by
  intro addr v s hw hfit
  have hclip : clip s.storeLen addr v.length = v.length := clip_whole hfit
  apply List.ext_getElem
  · rw [memRead_length]
    exact hclip
  · intro i h1 h2
    have hin : addr ≤ addr + i ∧ addr + i < addr + clip s.storeLen addr v.length := by omega
    simp only [memRead, List.getElem_map, List.getElem_range]
    rw [memWrite_readByte _ _ _ _ hw, if_pos hin, Nat.add_sub_cancel_left, List.getD_eq_getElem _ _ h2]

/-- A count set on a store-bound context is its counter; on a bound one it is contract fault F2 (R166). -/
theorem IoCtx.setBytesLeft_eq (c : IoCtx) (k : Word) :
    c.setBytesLeft k = if c.isStore then .ok (.store c.offset k) else .error .setBytesLeftWhileBound := by
  cases c <;> rfl

/-- Settles O48: the port is `setBytesLeft` on the read context. -/
theorem setReadLimitEffect : Obligations.SetReadLimitEffect := by
  refine fun k s => ⟨fun o c h => ?_, fun d p c h => ?_⟩
  · have hset : s.rd.setBytesLeft k = .ok (.store o k) := by rw [h, IoCtx.setBytesLeft_eq]; rfl
    rw [setReadLimit, hset]
    rfl
  · have hset : s.rd.setBytesLeft k = .error .setBytesLeftWhileBound := by rw [h, IoCtx.setBytesLeft_eq]; rfl
    rw [setReadLimit, hset]
    rfl

/-- Advancing keeps the binding. -/
theorem IoCtx.advance_boundTo {c c' : IoCtx} {n : Nat} (hn : n ≤ c.bytesLeft) (h : c.advance n = .ok c') :
    c'.boundTo = c.boundTo := by
  rw [IoCtx.advance_ok c n hn] at h
  cases h
  cases c <;> rfl

/-- The cursor moves by n bytes, or by 8n bits when bound, modulo 2^32 (R165). -/
theorem IoCtx.advance_offset {c c' : IoCtx} {n : Nat} (hn : n ≤ c.bytesLeft) (h : c.advance n = .ok c') :
    c'.offset.toNat = (c.offset.toNat + if c.isStore then n else 8 * n) % 2 ^ 32 := by
  rw [IoCtx.advance_ok c n hn] at h
  cases h
  cases c with
  | store o k => exact (BitVec.toNat_add ..).trans (by rw [BitVec.toNat_ofNat, Nat.add_mod_mod]; rfl)
  | override d p k => exact (BitVec.toNat_add ..).trans (by rw [BitVec.toNat_ofNat, Nat.add_mod_mod]; rfl)

/-- Settles O53: what an advance within the remaining bytes keeps and moves, and the two contract faults. -/
theorem advanceMovesCursor : Obligations.AdvanceMovesCursor := by
  refine fun c hw => ⟨fun n hn => ?_, c.advance_error, fun d => ⟨rfl, rfl, rfl⟩, c.setBytesLeft_eq⟩
  have hadv := IoCtx.advance_ok c n hn
  exact ⟨_, hadv, IoCtx.advance_bytesLeft hw hadv, IoCtx.advance_boundTo hn hadv, IoCtx.advance_offset hn hadv,
    IoCtx.advance_wf _ _ _ hw hadv⟩

end Sys2Proof.Machine
end

section
/-! SUPPORT. Which of the shortest triples is derived, when construction fails, and the card it makes
(40_register_composer.md R140, R144; 60_exceptions.md R302; 70_reset_and_hazards.md R333). -/

namespace Sys2Proof.Machine

/-! ### The order of the candidates (40_register_composer.md R140) -/

/-- A triple comes before another: of a smaller block-length code, or of the same and a smaller multiplier. -/
def Triple.Before (t u : Triple) : Prop := t.b < u.b ∨ (t.b = u.b ∧ t.m < u.m)

theorem Triple.Before.trans {t u v : Triple} (h : t.Before u) (h' : u.Before v) : t.Before v := by
  unfold Triple.Before at *
  omega

/-- The candidates are in order. -/
theorem candidates_pairwise (r lo hi : Nat) : (candidates r lo hi).Pairwise Triple.Before := by
  rw [candidates, List.pairwise_flatMap]
  refine ⟨fun b _ => ?_, (List.pairwise_lt_range' _ Nat.one_pos).imp fun hlt t ht u hu => ?_⟩
  · refine List.pairwise_lt_range.filterMap _ fun m m' hm t ht u hu => ?_
    obtain ⟨htm, htb, -⟩ := smallestTriple_some ht
    obtain ⟨hum, hub, -⟩ := smallestTriple_some hu
    exact .inr ⟨htb.trans hub.symm, htm ▸ hum ▸ hm⟩
  · obtain ⟨m, -, ht⟩ := List.mem_filterMap.mp ht
    obtain ⟨m', -, hu⟩ := List.mem_filterMap.mp hu
    obtain ⟨-, htb, -⟩ := smallestTriple_some ht
    obtain ⟨-, hub, -⟩ := smallestTriple_some hu
    exact .inl (htb ▸ hub ▸ hlt)

/-- In an ordered list the chosen triple comes before every other of its length. -/
theorem firstShortest_first : ∀ (ts : List Triple) (t : Triple), (t :: ts).Pairwise Triple.Before →
    ∀ u ∈ t :: ts, u.length = (firstShortest t ts).length → firstShortest t ts = u ∨ (firstShortest t ts).Before u
  | [], t, _, u, hu, _ => .inl (List.mem_singleton.mp hu).symm
  | x :: xs, t, h, u, hu, hlen => by
    obtain ⟨ht, hx⟩ := List.pairwise_cons.mp h
    obtain ⟨-, hxs⟩ := List.pairwise_cons.mp hx
    have htxs : (t :: xs).Pairwise Triple.Before :=
      List.pairwise_cons.mpr ⟨fun v hv => ht v (List.mem_cons_of_mem _ hv), hxs⟩
    rw [firstShortest] at hlen ⊢
    split_ifs at hlen ⊢ with hshort
    · obtain rfl | hu := List.mem_cons.mp hu
      · have := firstShortest_length_le xs x x List.mem_cons_self
        omega
      · exact firstShortest_first xs x hx u hu hlen
    · have hkept := firstShortest_length_le xs t t List.mem_cons_self
      obtain rfl | rfl | hu : u = t ∨ u = x ∨ u ∈ xs := by simpa using hu
      · exact firstShortest_first xs u htxs u List.mem_cons_self hlen
      · have hbefore := ht u List.mem_cons_self
        obtain heq | hb := firstShortest_first xs t htxs t List.mem_cons_self (by omega)
        · exact .inr (by rwa [heq])
        · exact .inr (hb.trans hbefore)
      · exact firstShortest_first xs t htxs u (List.mem_cons_of_mem _ hu) hlen

/-- The derived triple comes before every other candidate of its length. -/
theorem deriveCapacity_first {r lo hi : Nat} {t u : Triple} (h : deriveCapacity r lo hi = some t)
    (hu : u ∈ candidates r lo hi) (hlen : u.length = t.length) : t = u ∨ t.Before u := by
  have hord := candidates_pairwise r lo hi
  unfold deriveCapacity at h
  split at h
  · cases h
  · rename_i x xs hc
    cases h
    rw [hc] at hord hu
    exact firstShortest_first xs x hord u hu hlen

/-- Settles O55: a triple of the derived length has a candidate of its own code and multiplier, and that length. -/
theorem capacityTieBreak : Obligations.CapacityTieBreak := by
  intro r lo hi t ht u hm hd hlo hhi hlen
  obtain ⟨-, hr⟩ := candidate_legal (deriveCapacity_mem ht)
  cases hv : smallestTriple r u.m u.b with
  | none => exact absurd (smallestTriple_none hv u.d hd) (Nat.not_lt.mpr (hr.trans hlen.ge))
  | some v =>
    obtain ⟨hvm, hvb, -, -, hle⟩ := smallestTriple_some hv
    have hmem := mem_candidates.mpr ⟨u.b, u.m, hlo, hhi, hm, hv⟩
    have hvu : v.length ≤ u.length := Triple.length_mono hvm.le (hle u.d (hr.trans hlen.ge)) hvb.le
    have hvt : v.length = t.length := le_antisymm (hvu.trans hlen.le) (deriveCapacity_length_le ht hmem)
    obtain rfl | hb := deriveCapacity_first ht hmem hvt
    · exact .inr ⟨hvb, hvm.le⟩
    · unfold Triple.Before at hb
      omega

/-! ### Construction -/

/-- With no legal code there is no candidate. -/
theorem candidates_of_lt (r : Nat) {lo hi : Nat} (h : hi < lo) : candidates r lo hi = [] := by
  rw [candidates, Nat.sub_eq_zero_of_le h]
  rfl

theorem construct_of_not_wf {p : Params} (init : List Host.Cell) (h : p.wf = false) :
    construct p init = .refused .illFormedParameters := by
  simp only [construct, h, Bool.false_eq_true, if_false]

theorem construct_of_none {p : Params} (init : List Host.Cell) (h : p.wf = true)
    (hc : deriveCapacity p.requestedCapacity p.blMin.val p.blMax.val = none) :
    construct p init = .fault .capacityUnencodable := by
  simp only [construct, h, hc, if_true]

theorem construct_of_some {p : Params} (init : List Host.Cell) {t : Triple} (h : p.wf = true)
    (hc : deriveCapacity p.requestedCapacity p.blMin.val p.blMax.val = some t) :
    construct p init = .next (freshCard p init t) := by
  simp only [construct, h, hc, if_true]

/-- The largest encodable length (40_register_composer.md R142). -/
theorem length_max (hi : Nat) : (Triple.mk 7 4095 hi).length = 2 ^ (21 + hi) := by
  rw [Triple.length_eq, pow_add, pow_add]
  ring

/-- Settles O56: construction derives a triple unless there is no candidate, for want of a code or of length. -/
theorem constructionFailsAboveMaximum : Obligations.ConstructionFailsAboveMaximum := by
  intro p init
  refine ⟨construct_of_not_wf init, fun hw hlt => ?_, fun hw hle => ⟨fun hr => ?_, fun hr => ?_⟩⟩
  · exact construct_of_none init hw (deriveCapacity_eq_none.mpr (candidates_of_lt _ hlt))
  · refine construct_of_none init hw (deriveCapacity_eq_none.mpr ((candidates_eq_nil hle).mpr ?_))
    rwa [length_max]
  · cases hc : deriveCapacity p.requestedCapacity p.blMin.val p.blMax.val with
    | some t => exact ⟨_, construct_of_some init hw hc⟩
    | none =>
      have := (candidates_eq_nil hle).mp (deriveCapacity_eq_none.mp hc)
      rw [length_max] at this
      omega

/-! ### The fresh card -/

/-- After cells are written one by one, an address reads as the last one written there (70_reset_and_hazards.md
R333). -/
theorem readByte_foldl_writeByte (a : Nat) : ∀ (cs : List Host.Cell) (m : Memory), m.wf = true →
    Memory.readByte (cs.foldl (fun m c => m.writeByte c.1 c.2) m) a =
      ((cs.reverse.find? fun c => c.1 == a).map (·.2)).getD (m.readByte a)
  | [], m, _ => rfl
  | c :: cs, m, hm => by
    rw [List.foldl_cons, readByte_foldl_writeByte a cs _ (Memory.wf_writeByte m c.1 c.2 hm),
      Memory.readByte_writeByte m c.1 a c.2 hm, List.reverse_cons, List.find?_append]
    cases cs.reverse.find? fun c => c.1 == a with
    | some d => rfl
    | none => by_cases hca : c.1 = a <;> simp [hca]

/-- A byte of the store at construction is the last one listed for it (92_eei_decisions.md D31; log 7). -/
theorem initialStore_readByte {len a : Nat} (cells : List Host.Cell) (h : a < len) :
    (initialStore len cells).readByte a =
      ((cells.reverse.find? fun c => c.1 == a).map (·.2)).getD Memory.unlisted := by
  rw [initialStore, readByte_foldl_writeByte a _ [] rfl, ← List.filter_reverse, List.find?_filter]
  congr 3
  funext c
  by_cases hca : c.1 = a
  · simp [hca, h]
  · simp [hca]

/-- A derived geometry's fields, and the length they encode. -/
theorem geometryOf_derived {r lo : Nat} {hi : Fin 16} {t : Triple} (h : deriveCapacity r lo hi.val = some t) :
    ((geometryOf t).m.toNat = t.m ∧ (geometryOf t).d.toNat = t.d ∧ (geometryOf t).b.toNat = t.b) ∧
      (geometryOf t).length = t.length := by
  obtain ⟨hm, hd, hb⟩ := deriveCapacity_bounds h
  obtain ⟨gm, gd, gb⟩ := geometryOf_toNat hm hd (hb.trans_lt hi.isLt)
  exact ⟨⟨gm, gd, gb⟩, by rw [Geometry.length, gm, gd, gb, Triple.length]⟩

/-- Settles O57: the fields are `freshCard`'s, the store is the listed cells', and each part of the invariant holds. -/
theorem freshCardState : Obligations.FreshCardState := by
  intro p init s h
  obtain ⟨-, t, ht, rfl⟩ := construct_cases h
  obtain ⟨⟨gm, gd, gb⟩, hlen⟩ := geometryOf_derived ht
  obtain ⟨-, hr⟩ := candidate_legal (deriveCapacity_mem ht)
  refine ⟨⟨t, ht, gm, gd, gb, hr, rfl⟩, fun a ha => ?_, initialStore_wf _ _, initialStore_below _ _, rfl, rfl, rfl,
    hlen, rfl⟩
  refine (initialStore_readByte init ha).trans ?_
  cases init.reverse.find? fun c => c.1 == a <;> rfl

end Sys2Proof.Machine
end
